-- ==== Sys2Proof/Word.lean ====
section
/-! DEFINITION. The words of the block: bytes, response words, command words (00_scope R9). All are unsigned. -/

namespace Sys2Proof

/-- A byte: a colour channel, a brightness, an index, a byte of the strip buffer (R9). -/
abbrev Byte := BitVec 8

/-- A 32-bit word: a packed colour, the `ARG` field, a response (R9, R81). -/
abbrev Word32 := BitVec 32

/-- A command word (R70). -/
abbrev CmdWord := BitVec 48

end Sys2Proof
end

