-- ==== Sys2Proof/Config.lean ====
section
/-! DEFINITION. The parameters of an instance (00_scope R7, R237) and the free values: constants with no body for what
the spec leaves open, so that no proof can rest on a value of one. -/

namespace Sys2Proof.Config

/-- Which of the two supported clock rates the instance was built for (R7). -/
inductive ClkSel where
  | slow
  | fast
  deriving DecidableEq, Repr

/-- The parameters of one instance, fixed when it is built (R7, R38). The last six fields are R7's legality conditions:
"no instance with such parameters exists" becomes: no value of this type breaks them. `T_LATCH` is `tLatchSeconds` below. -/
structure Params where
  /-- `N`, the LED count. -/
  n : Nat
  /-- `PIN`: an opaque identity; every value stands for a valid pin (R5, U2). -/
  pin : Nat
  /-- `CLK_SEL`. -/
  clkSel : ClkSel
  /-- `F_SLOW` in Hz, an open parameter. The spec bounds it nowhere: any natural number is admitted (DESIGN CHOICE, log 25). -/
  fSlow : Nat
  /-- `F_FAST` in Hz, an open parameter. Unbounded, and not compared with `F_SLOW` (DESIGN CHOICE, log 25). -/
  fFast : Nat
  /-- `TBIT`: clock cycles in one bit period. -/
  tBit : Nat
  /-- `T1H`: clock cycles high for a 1 bit. -/
  t1h : Nat
  /-- `T0H`: clock cycles high for a 0 bit. -/
  t0h : Nat
  n_pos : 1 ≤ n
  n_fits : 3 * n < 256
  t0h_pos : 1 ≤ t0h
  t0h_lt : t0h < t1h
  t1h_lt : t1h < tBit
  tBit_le : tBit ≤ 255
  deriving DecidableEq, Repr

/-- `NBYTES = 3*N` (R7). -/
def Params.nbytes (p : Params) : Nat := 3 * p.n

/-- `F_CLK` (R7). -/
def Params.fClk (p : Params) : Nat :=
  match p.clkSel with
  | .slow => p.fSlow
  | .fast => p.fFast

/-- `24*N*TBIT`: the cycles of one frame (R181). -/
def Params.frameCycles (p : Params) : Nat := 24 * p.n * p.tBit

/-- `TH`: the high cycles of the symbol of a bit (R82, R172). -/
def Params.highCycles (p : Params) (bit : Bool) : Nat := if bit then p.t1h else p.t0h

/-- The duration of `c` cycles in seconds, `c / F_CLK` (R8, R189). DESIGN CHOICE: with a clock of 0 Hz, which the spec does not
exclude, this is 0, as Lean's division by 0 has it (log 25). -/
def Params.seconds (p : Params) (c : Nat) : Rat := (c : Rat) / (p.fClk : Rat)

/-- Why an instance is not built (R7, R237, U9). -/
inductive BuildReject where
  /-- `N = 0` or `3*N >= 256`. -/
  | ledCount (n : Nat)
  /-- The clock is neither of the two supported rates. -/
  | clock (hz : Nat)
  /-- The pulse recipe breaks `1 <= T0H < T1H < TBIT <= 255`. -/
  | recipe
  deriving DecidableEq, Repr

/-- Building an instance for a clock of `hz` Hz: "a build-time rejection, not a runtime error" (R7, R237, U9). DESIGN CHOICE, where the
spec gives the two rates no bound: rates of 0 Hz and equal rates are admitted, and where the two are equal the instance is SLOW (log
25). -/
def Params.build (n pin hz fSlow fFast tBit t1h t0h : Nat) : Except BuildReject Params :=
  if hn : 1 ≤ n ∧ 3 * n < 256 then
    if hr : 1 ≤ t0h ∧ t0h < t1h ∧ t1h < tBit ∧ tBit ≤ 255 then
      let made (c : ClkSel) : Params :=
        ⟨n, pin, c, fSlow, fFast, tBit, t1h, t0h, hn.1, hn.2, hr.1, hr.2.1, hr.2.2.1, hr.2.2.2⟩
      if hz = fSlow then .ok (made .slow)
      else if hz = fFast then .ok (made .fast)
      else .error (.clock hz)
    else .error .recipe
  else .error (.ledCount n)

/-- The spec's default of `F_SLOW` (decision D7; PRESUMED by the spec from general knowledge; log 3). -/
def defaultFSlow : Nat := 8000000

/-- The spec's default of `F_FAST` (decision D7; PRESUMED by the spec from general knowledge; log 3). -/
def defaultFFast : Nat := 16000000

/-- An instance with the SLOW defaults 10/7/3 (R7, decision D8). -/
def Params.slow (n : Nat) (h : 1 ≤ n) (h' : 3 * n < 256) : Params :=
  ⟨n, 0, .slow, defaultFSlow, defaultFFast, 10, 7, 3, h, h', by decide, by decide, by decide, by decide⟩

/-- An instance with the FAST defaults 20/14/6 (R7, decision D8). -/
def Params.fast (n : Nat) (h : 1 ≤ n) (h' : 3 * n < 256) : Params :=
  ⟨n, 0, .fast, defaultFSlow, defaultFFast, 20, 14, 6, h, h', by decide, by decide, by decide, by decide⟩

/-- The instance of `State.reset`. DESIGN CHOICE: the longest strip, SLOW defaults (log 2). -/
def resetInstance : Params := Params.slow 85 (by decide) (by decide)

/-- `T_LATCH` (R7, R241, U10), in seconds: open, and no source gives a figure (K2, N23). No step reads it; log 18. -/
opaque tLatchSeconds : Rat

/-- FREE VALUE: the byte at an address of `BUF` that nothing has written since the reset at the given edge (R41, U5; log 4). -/
opaque freeBufByte : Nat → Nat → Byte

/-- FREE VALUE: `RSP` after the reset at the given edge (R41, U7; log 6). -/
opaque freeRsp : Nat → Word32

/-- FREE VALUE: `SAVED_IE` after the reset at the given edge (R41, U7; log 6). -/
opaque freeSavedIe : Nat → Bool

/-- FREE VALUE: `PTR` after the reset at the given edge (R41, U7; log 6). -/
opaque freePtr : Nat → Byte

/-- FREE VALUE: `CNT` after the reset at the given edge (R41, U7; log 6). -/
opaque freeCnt : Nat → Byte

/-- FREE VALUE: `BITN` after the reset at the given edge (R41, U7; log 6). -/
opaque freeBitn : Nat → BitVec 3

/-- FREE VALUE: `SHR` after the reset at the given edge (R41, U7; log 6). -/
opaque freeShr : Nat → Byte

/-- FREE VALUE: `TCNT` after the reset at the given edge (R41, U7; log 6). -/
opaque freeTcnt : Nat → Byte

/-- FREE VALUE: `IE` after a reset at the given edge that cuts a frame (R233, U11; log 8). -/
opaque freeIe : Nat → Bool

/-- FREE VALUE: the level of the line in the given cycle while the pad does not drive it (R26, U4; log 12). -/
opaque freeLine : Nat → Bool

end Sys2Proof.Config
end

