-- ==== Sys2Proof/Syntax.lean ====
section
/-! DEFINITION. The commands: one constructor per row of spec/opcode_table.json, with the operands of 30_encoding R71 and
R75 to R80. -/

namespace Sys2Proof

/-- The twenty commands (R71). `idx` is the `IDX` field (R75); the other operands are the named bytes of `ARG`. -/
inductive Instr where
  /-- BEGIN (R131). -/
  | beginStrip
  /-- SIZE (R132). -/
  | size
  /-- COMMIT (R170). -/
  | commit
  /-- SET.RGB (R133, operands R76). -/
  | setRgb (idx r g b : Byte)
  /-- SET.BRGB (R134, operands R77). -/
  | setBrgb (idx k r g b : Byte)
  /-- SET.PACKED (R135, operand R78). -/
  | setPacked (idx : Byte) (w : Word32)
  /-- SET.SEQ0 (R136, operands R79). -/
  | setSeq0 (idx : Byte)
  /-- SET.SEQ1 (R137, operands R79). -/
  | setSeq1 (idx v0 : Byte)
  /-- SET.SEQ2 (R138, operands R79). -/
  | setSeq2 (idx v0 v1 : Byte)
  /-- SET.SEQ3 (R139, operands R79). -/
  | setSeq3 (idx v0 v1 v2 : Byte)
  /-- SET.SEQ4 (R140, operands R79). -/
  | setSeq4 (idx v0 v1 v2 v3 : Byte)
  /-- GET (R141). -/
  | get (idx : Byte)
  /-- GET.R (R142). -/
  | getR (idx : Byte)
  /-- GET.G (R143). -/
  | getG (idx : Byte)
  /-- GET.B (R144). -/
  | getB (idx : Byte)
  /-- PUT.R (R145, operand R80). -/
  | putR (idx v : Byte)
  /-- PUT.G (R146, operand R80). -/
  | putG (idx v : Byte)
  /-- PUT.B (R147, operand R80). -/
  | putB (idx v : Byte)
  /-- DIM (R148, operand R80). -/
  | dim (idx k : Byte)
  /-- DIMMER (R149, operand R80). -/
  | dimmer (idx k : Byte)
  deriving DecidableEq, Repr

/-- The `IDX` operand of a command that has one; BEGIN, SIZE and COMMIT act on the whole strip (R75). -/
def Instr.index? : Instr → Option Byte
  | .beginStrip | .size | .commit => none
  | .setRgb i _ _ _ | .setBrgb i _ _ _ _ | .setPacked i _ => some i
  | .setSeq0 i | .setSeq1 i _ | .setSeq2 i _ _ | .setSeq3 i _ _ _ | .setSeq4 i _ _ _ _ => some i
  | .get i | .getR i | .getG i | .getB i => some i
  | .putR i _ | .putG i _ | .putB i _ => some i
  | .dim i _ | .dimmer i _ => some i

end Sys2Proof
end

