-- ==== Sys2Proof/Machine/State.lean ====
section
/-! DEFINITION. The state of the block (10_state), what the environment does at an edge (R16, R36), the reasons a step can
stop, and the state after reset (R41, R230). -/

namespace Sys2Proof.Machine

/-- The listed bytes of the strip buffer: addresses strictly rising; an unlisted address has no written value. -/
abbrev Memory := List Host.Cell

/-- `PHASE` (R27). -/
inductive Phase where
  /-- No frame in progress. -/
  | idle
  /-- The high part of a bit period. -/
  | high
  /-- The low part of a bit period. -/
  | low
  deriving DecidableEq, Repr

/-- The input ports at one clock edge (R36) and the controller's own write of `IE` (R16, R35; log 10, log 11). -/
structure EdgeInput where
  rst : Bool
  cmdValid : Bool
  cmd : CmdWord
  ieWrite : Option Bool
  deriving DecidableEq, Repr

/-- The environment does nothing at the edge. -/
def EdgeInput.quiet : EdgeInput := ⟨false, false, 0, none⟩

/-- The host presents the command word `w` at the edge, and nothing else happens. -/
def EdgeInput.present (w : CmdWord) : EdgeInput := ⟨false, true, w, none⟩

/-- What stops the machine with a fault. -/
inductive Fault where
  /-- An access to an address outside `BUF`, for which `MemRead` and `MemWrite` are not defined (R57). Raised by the buffer
  accesses of the commands and by the sequencer's byte load; no state that meets `State.Inv` raises it. Safe (log 16). -/
  | outsideBuffer (address : Nat)
  deriving DecidableEq, Repr

/-- What the model gives no meaning. -/
inductive Refusal where
  /-- The instruction has no meaning in the model yet; raised by no arm. Safe. -/
  | notModelled (mnemonic : String)
  /-- `IDX >= N`: "undefined behavior by design"; refused by value, naming the command and the index (R55, U1). Raised by
  every command that has an index. Safe (log 14). -/
  | indexOutOfRange (mnemonic : String) (idx : Byte)
  /-- A reserved command word (R73, U6). Raised by `step` at the accept edge. Safe (log 15). -/
  | reservedWord (w : CmdWord)
  deriving DecidableEq, Repr

/-- The state in one cycle: every element holds the value it has after the cycle's edge (R11). -/
structure State where
  /-- The instance's parameters (R7). No step changes them (R38; log 2). -/
  inst : Config.Params
  /-- The number of the cycle's edge (R11). The model's own field. -/
  edge : Nat
  /-- The edge of the last reset: the key of the unspecified contents of `BUF` (R41). The model's own field (log 4). -/
  bufKey : Nat
  /-- `BUF` (R23). -/
  buf : Memory
  /-- `DIR`, which is `CFG` (R22, R24): true = digital output, configured. -/
  dir : Bool
  /-- `DOUT` (R25): true = high. -/
  dout : Bool
  /-- `PHASE` (R27). -/
  phase : Phase
  /-- `PTR` (R28). -/
  ptr : Byte
  /-- `CNT` (R29). -/
  cnt : Byte
  /-- `BITN` (R30). -/
  bitn : BitVec 3
  /-- `SHR` (R31). -/
  shr : Byte
  /-- `TCNT` (R32). -/
  tcnt : Byte
  /-- `RSP` (R33). -/
  rsp : Word32
  /-- `RSP_VALID` (R33). -/
  rspValid : Bool
  /-- `SAVED_IE` (R34). -/
  savedIe : Bool
  /-- `IE`, the controller's global interrupt enable (R35). -/
  ie : Bool
  /-- `rst` as sampled at the cycle's edge, on which `cmd_ready` depends (R37, R230; log 9). -/
  rstQ : Bool
  /-- What the environment does at the coming edges, the next one first; after the list, nothing. The model's own field
  (log 10). -/
  inputs : List EdgeInput
  deriving DecidableEq, Repr

/-- The state after one reset edge (R41, R230): edge 0 of V-R1. `DIR`, `DOUT`, `PHASE` and `RSP_VALID` are the spec's; the
contents of `BUF` are free (nothing is listed). DESIGN CHOICE, where the spec gives no value: the registers are 0 (log 5), `IE`
is 0 (log 7), the instance is the longest strip with SLOW defaults (log 2). -/
def State.reset : State where
  inst := Config.resetInstance
  edge := 0
  bufKey := 0
  buf := []
  dir := false
  dout := false
  phase := .idle
  ptr := 0
  cnt := 0
  bitn := 0
  shr := 0
  tcnt := 0
  rsp := 0
  rspValid := false
  savedIe := false
  ie := false
  rstQ := true
  inputs := []

end Sys2Proof.Machine
end

