-- ==== Sys2Proof/Machine/Flags.lean ====
section
/-! DEFINITION. The one status flag, `CFG` (R22), and the signals derived from the state: `BUSY` (R27), `cmd_ready` (R37, R230),
the pad and the line (R26). The block has no condition code. -/

namespace Sys2Proof.Machine

/-- `CFG`, the same bit as `DIR` (R22). -/
def State.cfg (s : State) : Bool := s.dir

/-- Setting `CFG`, that is `DIR` (R22, R24, R131). -/
def State.configure (s : State) : State := { s with dir := true }

/-- `BUSY = (PHASE != IDLE)` (R27). -/
def State.busy (s : State) : Bool := s.phase != .idle

/-- `cmd_ready`: `rst` was 0 at the cycle's edge and `PHASE = IDLE` (R37, R230; log 9). -/
def State.cmdReady (s : State) : Bool := !s.rstQ && !s.busy

/-- The pad: not driven, or driven to a level (R26). -/
inductive Pad where
  | z
  | driven (level : Bool)
  deriving DecidableEq, Repr

/-- `PAD = DOUT` when `DIR = 1`, and `Z` when `DIR = 0` (R26). -/
def State.pad (s : State) : Pad := if s.dir then .driven s.dout else .z

/-- The level of the line: the pad's when it is driven, else a free input of the environment (R26, U4; log 12). -/
def State.line (s : State) : Bool :=
  match s.pad with
  | .driven level => level
  | .z => Config.freeLine s.edge

/-- The bit on the pin is `SHR[7]` (R31), and its high time is `TH` (R172). -/
def State.th (s : State) : Nat := s.inst.highCycles (s.shr.getLsbD 7)

end Sys2Proof.Machine
end

