-- ==== Sys2Proof/Decode.lean ====
section
/-! DEFINITION. The command word (30_encoding R70), the opcode table (R71, R72), the decoder (R73, R74) and, after it, the
encoder. Both are written from the encoding tables of the spec. -/

namespace Sys2Proof

/-! ## The fields of a word -/

/-- `OP = word[47:40]` (R70). -/
def opOf (w : CmdWord) : Byte := w.extractLsb' 40 8

/-- `IDX = word[39:32]` (R70). -/
def idxOf (w : CmdWord) : Byte := w.extractLsb' 32 8

/-- `ARG = word[31:0]` (R70). -/
def argOf (w : CmdWord) : Word32 := w.extractLsb' 0 32

/-- The word `{OP, IDX, ARG}` (R70). -/
def mkWord (op idx : Byte) (arg : Word32) : CmdWord := op ++ idx ++ arg

/-- `v[31:24]`. -/
def byte3 (v : Word32) : Byte := v.extractLsb' 24 8

/-- `v[23:16]`. -/
def byte2 (v : Word32) : Byte := v.extractLsb' 16 8

/-- `v[15:8]`. -/
def byte1 (v : Word32) : Byte := v.extractLsb' 8 8

/-- `v[7:0]`. -/
def byte0 (v : Word32) : Byte := v.extractLsb' 0 8

/-- The 32-bit word `{b3, b2, b1, b0}`, the first the most significant (R9). -/
def mkArg (b3 b2 b1 b0 : Byte) : Word32 := b3 ++ b2 ++ b1 ++ b0

/-! ## The opcode table -/

/-- One row of R72 with the operand fields of R71: a word is the row's command when `word & mask = pat`. -/
structure Row where
  mnemonic : String
  mask : CmdWord
  pat : CmdWord
  build : CmdWord → Instr

/-- The strip-wide commands: `IDX` and `ARG` must be 0. -/
def rowsStrip : List Row :=
  [ ⟨"BEGIN", 0xFFFFFFFFFFFF, 0x010000000000, fun _ => .beginStrip⟩,
    ⟨"SIZE", 0xFFFFFFFFFFFF, 0x020000000000, fun _ => .size⟩,
    ⟨"COMMIT", 0xFFFFFFFFFFFF, 0x030000000000, fun _ => .commit⟩ ]

/-- The SET commands (operands R76 to R79). -/
def rowsSet : List Row :=
  [ ⟨"SET.RGB", 0xFF00FF000000, 0x100000000000,
      fun w => .setRgb (idxOf w) (byte2 (argOf w)) (byte1 (argOf w)) (byte0 (argOf w))⟩,
    ⟨"SET.BRGB", 0xFF0000000000, 0x110000000000,
      fun w => .setBrgb (idxOf w) (byte3 (argOf w)) (byte2 (argOf w)) (byte1 (argOf w)) (byte0 (argOf w))⟩,
    ⟨"SET.PACKED", 0xFF0000000000, 0x120000000000, fun w => .setPacked (idxOf w) (argOf w)⟩,
    ⟨"SET.SEQ0", 0xFF00FFFFFFFF, 0x180000000000, fun w => .setSeq0 (idxOf w)⟩,
    ⟨"SET.SEQ1", 0xFF00FFFFFF00, 0x190000000000, fun w => .setSeq1 (idxOf w) (byte0 (argOf w))⟩,
    ⟨"SET.SEQ2", 0xFF00FFFF0000, 0x1A0000000000,
      fun w => .setSeq2 (idxOf w) (byte1 (argOf w)) (byte0 (argOf w))⟩,
    ⟨"SET.SEQ3", 0xFF00FF000000, 0x1B0000000000,
      fun w => .setSeq3 (idxOf w) (byte2 (argOf w)) (byte1 (argOf w)) (byte0 (argOf w))⟩,
    ⟨"SET.SEQ4", 0xFF0000000000, 0x1C0000000000,
      fun w => .setSeq4 (idxOf w) (byte3 (argOf w)) (byte2 (argOf w)) (byte1 (argOf w)) (byte0 (argOf w))⟩ ]

/-- The GET commands: `ARG` must be 0. -/
def rowsGet : List Row :=
  [ ⟨"GET", 0xFF00FFFFFFFF, 0x200000000000, fun w => .get (idxOf w)⟩,
    ⟨"GET.R", 0xFF00FFFFFFFF, 0x210000000000, fun w => .getR (idxOf w)⟩,
    ⟨"GET.G", 0xFF00FFFFFFFF, 0x220000000000, fun w => .getG (idxOf w)⟩,
    ⟨"GET.B", 0xFF00FFFFFFFF, 0x230000000000, fun w => .getB (idxOf w)⟩ ]

/-- The PUT commands, DIM and DIMMER: the operand is `ARG[7:0]`, `ARG[31:8]` must be 0 (R80). -/
def rowsEdit : List Row :=
  [ ⟨"PUT.R", 0xFF00FFFFFF00, 0x290000000000, fun w => .putR (idxOf w) (byte0 (argOf w))⟩,
    ⟨"PUT.G", 0xFF00FFFFFF00, 0x2A0000000000, fun w => .putG (idxOf w) (byte0 (argOf w))⟩,
    ⟨"PUT.B", 0xFF00FFFFFF00, 0x2B0000000000, fun w => .putB (idxOf w) (byte0 (argOf w))⟩,
    ⟨"DIM", 0xFF00FFFFFF00, 0x300000000000, fun w => .dim (idxOf w) (byte0 (argOf w))⟩,
    ⟨"DIMMER", 0xFF00FFFFFF00, 0x310000000000, fun w => .dimmer (idxOf w) (byte0 (argOf w))⟩ ]

/-- The opcode table (R71, R72). -/
def opcodeTable : List Row := rowsStrip ++ rowsSet ++ rowsGet ++ rowsEdit

/-- The word matches the row (R72). -/
def Row.accepts (r : Row) (w : CmdWord) : Bool := w &&& r.mask == r.pat

/-! ## The decoder -/

/-- Why a word is reserved (R73). -/
inductive Reserved where
  /-- `OP` is in no row of the opcode map. -/
  | opcode (op : Byte)
  /-- `OP` is the named command's, and a must-be-zero field is not zero. -/
  | field (mnemonic : String)
  deriving DecidableEq, Repr

/-- The decoder, by R74's procedure: total on every 48-bit word. -/
def decode (w : CmdWord) : Except Reserved Instr :=
  match opcodeTable.find? (fun r => opOf r.pat == opOf w) with
  | none => .error (.opcode (opOf w))
  | some r => if r.accepts w then .ok (r.build w) else .error (.field r.mnemonic)

/-! ## The encoder -/

/-- The word of a command (R71; `ARG` forms R76 to R80). -/
def encode : Instr → CmdWord
  | .beginStrip => mkWord 0x01 0 0
  | .size => mkWord 0x02 0 0
  | .commit => mkWord 0x03 0 0
  | .setRgb idx r g b => mkWord 0x10 idx (mkArg 0 r g b)
  | .setBrgb idx k r g b => mkWord 0x11 idx (mkArg k r g b)
  | .setPacked idx w => mkWord 0x12 idx w
  | .setSeq0 idx => mkWord 0x18 idx 0
  | .setSeq1 idx v0 => mkWord 0x19 idx (mkArg 0 0 0 v0)
  | .setSeq2 idx v0 v1 => mkWord 0x1A idx (mkArg 0 0 v0 v1)
  | .setSeq3 idx v0 v1 v2 => mkWord 0x1B idx (mkArg 0 v0 v1 v2)
  | .setSeq4 idx v0 v1 v2 v3 => mkWord 0x1C idx (mkArg v0 v1 v2 v3)
  | .get idx => mkWord 0x20 idx 0
  | .getR idx => mkWord 0x21 idx 0
  | .getG idx => mkWord 0x22 idx 0
  | .getB idx => mkWord 0x23 idx 0
  | .putR idx v => mkWord 0x29 idx (mkArg 0 0 0 v)
  | .putG idx v => mkWord 0x2A idx (mkArg 0 0 0 v)
  | .putB idx v => mkWord 0x2B idx (mkArg 0 0 0 v)
  | .dim idx k => mkWord 0x30 idx (mkArg 0 0 0 k)
  | .dimmer idx k => mkWord 0x31 idx (mkArg 0 0 0 k)

/-- The mnemonic of a command (R71). -/
def Instr.mnemonic : Instr → String
  | .beginStrip => "BEGIN"
  | .size => "SIZE"
  | .commit => "COMMIT"
  | .setRgb _ _ _ _ => "SET.RGB"
  | .setBrgb _ _ _ _ _ => "SET.BRGB"
  | .setPacked _ _ => "SET.PACKED"
  | .setSeq0 _ => "SET.SEQ0"
  | .setSeq1 _ _ => "SET.SEQ1"
  | .setSeq2 _ _ _ => "SET.SEQ2"
  | .setSeq3 _ _ _ _ => "SET.SEQ3"
  | .setSeq4 _ _ _ _ _ => "SET.SEQ4"
  | .get _ => "GET"
  | .getR _ => "GET.R"
  | .getG _ => "GET.G"
  | .getB _ => "GET.B"
  | .putR _ _ => "PUT.R"
  | .putG _ _ => "PUT.G"
  | .putB _ _ => "PUT.B"
  | .dim _ _ => "DIM"
  | .dimmer _ _ => "DIMMER"

/-! ## The table word -/

/-- The instruction the decoder reads from the word whose bits are `w`, numbered as spec/opcode_table.json numbers them: a
command is one 48-bit word, bit 0 its least significant bit; the bits from `nbits` up are 0 (log 22). -/
def decodeTableWord (nbits w : Nat) : Option Instr :=
  match decode (BitVec.ofNat 48 (w % 2 ^ nbits)) with
  | .ok i => if nbits ≤ 48 then some i else none
  | .error _ => none

end Sys2Proof
end

