-- ==== Sys2Proof/Machine/Color.lean ====
section
/-! DEFINITION. The colour encode unit (40_color): pure functions on colours, with no state. -/

namespace Sys2Proof.Machine

/-- A Color: three bytes, fields in storage order (R100). Equality is on the three channels (R111). -/
structure Color where
  g : Byte
  r : Byte
  b : Byte
  deriving DecidableEq, Repr

/-- Three explicit bytes, direct assignment (R101). -/
def mkRGB (r g b : Byte) : Color := ⟨g, r, b⟩

/-- Read accessors in the public order (R102). -/
def red (c : Color) : Byte := c.r

/-- R102. -/
def green (c : Color) : Byte := c.g

/-- R102. -/
def blue (c : Color) : Byte := c.b

/-- Write accessors: one channel replaced (R103). -/
def withRed (c : Color) (v : Byte) : Color := ⟨c.g, v, c.b⟩

/-- R103. -/
def withGreen (c : Color) (v : Byte) : Color := ⟨v, c.r, c.b⟩

/-- R103. -/
def withBlue (c : Color) (v : Byte) : Color := ⟨c.g, c.r, v⟩

/-- The scale factor of a brightness byte, 1 to 256: brightness 0 is 256, no scaling (R104; 90_conflicts C1). -/
def fac (k : Byte) : BitVec 9 := if k = 0 then 256 else k.setWidth 9

/-- One channel scaled: bits 15:8 of the 16-bit product (R105, R116). -/
def scale1 (ch k : Byte) : Byte := (ch.setWidth 16 * (fac k).setWidth 16).extractLsb' 8 8

/-- The three channels scaled independently (R106). -/
def scale (c : Color) (k : Byte) : Color := ⟨scale1 c.g k, scale1 c.r k, scale1 c.b k⟩

/-- `dim`: the value that replaces the colour it is applied to (R107; 90_conflicts C2). -/
def dim (c : Color) (k : Byte) : Color := scale c k

/-- `dimmer`: a scaled copy (R107; 90_conflicts C2). -/
def dimmer (c : Color) (k : Byte) : Color := scale c k

/-- Four bytes: assign, then scale (R108). -/
def mkBRGB (k r g b : Byte) : Color := scale (mkRGB r g b) k

/-- A packed 32-bit value, its bytes taken by bit position (R109, R52, R78). -/
def mkPacked (w : Word32) : Color := mkBRGB (byte3 w) (byte2 w) (byte1 w) (byte0 w)

/-- An initializer sequence of 0 to 4 bytes in the order written; a longer one does not exist (R79, R110, U14). -/
inductive ByteSeq where
  | s0
  | s1 (v0 : Byte)
  | s2 (v0 v1 : Byte)
  | s3 (v0 v1 v2 : Byte)
  | s4 (v0 v1 v2 v3 : Byte)
  deriving DecidableEq, Repr

/-- A list of bytes as a sequence; none for more than four (U14). -/
def ByteSeq.ofList : List Byte → Option ByteSeq
  | [] => some .s0
  | [v0] => some (.s1 v0)
  | [v0, v1] => some (.s2 v0 v1)
  | [v0, v1, v2] => some (.s3 v0 v1 v2)
  | [v0, v1, v2, v3] => some (.s4 v0 v1 v2 v3)
  | _ => none

/-- The sequence laid against (brightness, R, G, B) from its right end (R110). -/
def mkSeq : ByteSeq → Color
  | .s0 => mkRGB 0 0 0
  | .s1 v0 => mkRGB 0 0 v0
  | .s2 v0 v1 => mkRGB 0 v0 v1
  | .s3 v0 v1 v2 => mkRGB v0 v1 v2
  | .s4 v0 v1 v2 v3 => mkBRGB v0 v1 v2 v3

/-- The public form of a colour, `{0x00, r, g, b}` (R112, R81). -/
def rgb24 (c : Color) : Word32 := mkArg 0 c.r c.g c.b

/-- The three bytes in storage order (R113). -/
def wire (c : Color) : List Byte := [c.g, c.r, c.b]

/-- The inverse of `wire` (R113). -/
def unwire (x0 x1 x2 : Byte) : Color := ⟨x0, x1, x2⟩

/-- The named colours (R114, R86): constants, no state (R6, R38). -/
inductive ColorName where
  | black
  | off
  | red
  | green
  | blue
  | white
  deriving DecidableEq, Repr

/-- The value of a named colour (R114). -/
def ColorName.color : ColorName → Color
  | .black | .off => mkRGB 0 0 0
  | .red => mkRGB 255 0 0
  | .green => mkRGB 0 255 0
  | .blue => mkRGB 0 0 255
  | .white => mkRGB 255 255 255

end Sys2Proof.Machine
end

