-- ==== Sys2Proof/Machine/Operands.lean ====
section
/-! DEFINITION. The operand forms: the index and its slot (R54, R55, R75), the channel offsets (R50), the colour literals
(R76 to R79). -/

namespace Sys2Proof.Machine

/-- `slot(i) = 3*i`, computed without truncation (R10, R54). -/
def slot (idx : Byte) : Nat := 3 * idx.toNat

/-- The address of the green byte of a slot (R50). -/
def greenAt (idx : Byte) : Nat := slot idx + 0

/-- The address of the red byte of a slot (R50). -/
def redAt (idx : Byte) : Nat := slot idx + 1

/-- The address of the blue byte of a slot (R50). -/
def blueAt (idx : Byte) : Nat := slot idx + 2

/-- A command with an index first requires `IDX < N`; else it is refused by value (R55, R130, U1; log 14). -/
def withIndex (mnemonic : String) (idx : Byte) (s : State)
    (k : Host.Outcome State Fault Refusal) : Host.Outcome State Fault Refusal :=
  if idx.toNat < s.inst.n then k else .refused (.indexOutOfRange mnemonic idx)

/-- The three-byte literal (R76). -/
def literalRgb (r g b : Byte) : Color := mkRGB r g b

/-- The four-byte literal (R77). -/
def literalBrgb (k r g b : Byte) : Color := mkBRGB k r g b

/-- The packed literal (R78). -/
def literalPacked (w : Word32) : Color := mkPacked w

/-- The sequence literals (R79). -/
def literalSeq (v : ByteSeq) : Color := mkSeq v

/-- The zero extension of a byte to a response word (R81). -/
def zext32 (v : Byte) : Word32 := v.setWidth 32

end Sys2Proof.Machine
end

