-- ==== Sys2Proof/Machine/Ops.lean ====
section
/-! DEFINITION. The named operations over the strip buffer (R23, R50, R57), the response register (R33), the critical section
(R215, R217) and the sequencer registers (R28 to R32). -/

namespace Sys2Proof.Machine

/-! ## The strip buffer -/

/-- The written byte at an address, if any. -/
def Memory.read : Memory → Nat → Option Byte
  | [], _ => none
  | (k, v) :: m, a => if k = a then some v else Memory.read m a

/-- One byte written, the addresses kept strictly rising. -/
def Memory.write : Memory → Nat → Byte → Memory
  | [], a, v => [(a, v)]
  | (k, u) :: m, a, v =>
    if a < k then (a, v) :: (k, u) :: m
    else if a = k then (a, v) :: m
    else (k, u) :: Memory.write m a v

/-- Bytes written at rising addresses. -/
def Memory.writeBytes : Memory → Nat → List Byte → Memory
  | m, _, [] => m
  | m, a, v :: vs => Memory.writeBytes (m.write a v) (a + 1) vs

/-- The canonical form: addresses strictly rising. (An unlisted address reads as no value, so no entry can equal it.) -/
def Memory.wf : Memory → Bool
  | [] => true
  | [_] => true
  | (a, _) :: (b, v) :: m => decide (a < b) && Memory.wf ((b, v) :: m)

/-- Every listed address lies inside a buffer of `size` bytes. -/
def Memory.within (m : Memory) (size : Nat) : Bool := m.all fun c => decide (c.1 < size)

/-- `BUF[a]`: the byte last written, or, where nothing has written since the last reset, the unspecified reset content: any
value, fixed until written (R41, U5; log 4). -/
def State.loadByte (s : State) (a : Nat) : Byte := (s.buf.read a).getD (Config.freeBufByte s.bufKey a)

/-- `MemRead(a, n)`: the bytes from `a` up, defined only when `a+n <= NBYTES` (R10, R57). -/
def State.memRead (s : State) (a n : Nat) : Option (List Byte) :=
  if a + n ≤ s.inst.nbytes then some ((List.range n).map fun i => s.loadByte (a + i)) else none

/-- `MemWrite(a, n, v)`, defined only when `a+n <= NBYTES` (R10, R57). -/
def State.memWrite (s : State) (a : Nat) (v : List Byte) : Option State :=
  if a + v.length ≤ s.inst.nbytes then some { s with buf := s.buf.writeBytes a v } else none

/-! ## The response register -/

/-- `respond(v)`: `RSP <- v`, `RSP_VALID <- 1` (R33). -/
def State.respond (s : State) (v : Word32) : State := { s with rsp := v, rspValid := true }

/-- An edge with no response: `RSP_VALID <- 0`, `RSP` kept (R33). -/
def State.noResponse (s : State) : State := { s with rspValid := false }

/-! ## Whole accesses of a command -/

/-- Store the bytes `v` from address `a` up; the command does not respond (R56, R57, R130). -/
def storeBytes (a : Nat) (v : List Byte) (s : State) : Host.Outcome State Fault Refusal :=
  match s.memWrite a v with
  | some t => .next t.noResponse
  | none => .fault (.outsideBuffer a)

/-- Store a colour in slot `idx`: `MemWrite(3*IDX, 3, wire(c))` (R113, R133 to R140). -/
def storeColor (idx : Byte) (c : Color) (s : State) : Host.Outcome State Fault Refusal :=
  storeBytes (slot idx) (wire c) s

/-- Load the colour of slot `idx`, `unwire(MemRead(3*IDX, 3))` (R113, R141, R148, R149), and go on with it. -/
def loadColor (idx : Byte) (s : State) (k : Color → Host.Outcome State Fault Refusal) :
    Host.Outcome State Fault Refusal :=
  match s.memRead (slot idx) 3 with
  | some [x0, x1, x2] => k (unwire x0 x1 x2)
  | _ => .fault (.outsideBuffer (slot idx))

/-- Load one byte (R142 to R144, R171, R176) and go on with it. -/
def loadOne (a : Nat) (s : State) (k : Byte → Host.Outcome State Fault Refusal) :
    Host.Outcome State Fault Refusal :=
  match s.memRead a 1 with
  | some [x] => k x
  | _ => .fault (.outsideBuffer a)

/-! ## The critical section: the block's counterpart of exception entry and return (60_exceptions) -/

/-- Entry: `SAVED_IE <- IE ; IE <- 0`, one indivisible read-and-clear; nothing else is saved (R215). -/
def State.enterCritical (s : State) : State := { s with savedIe := s.ie, ie := false }

/-- Exit: `IE <- SAVED_IE`, the prior state exactly (R217). -/
def State.exitCritical (s : State) : State := { s with ie := s.savedIe }

/-! ## The sequencer registers -/

/-- The registers at a COMMIT accept edge, the first byte of the buffer being `b` (R171). -/
def State.startFrame (s : State) (b : Byte) : State :=
  { s with ptr := 0, cnt := BitVec.ofNat 8 s.inst.nbytes, shr := b, bitn := 7, tcnt := 0, phase := .high, dout := true }

/-- `TCNT <- TCNT + 1` (R174, R175). -/
def State.countCycle (s : State) : State := { s with tcnt := s.tcnt + 1 }

/-- The falling edge of a symbol: `DOUT <- 0 ; PHASE <- LOW` (R174). -/
def State.fall (s : State) : State := { s with dout := false, phase := .low }

/-- The next bit of the same byte: `SHR <- {SHR[6:0], 0} ; BITN <- BITN - 1` (R176). -/
def State.nextBit (s : State) : State := { s with shr := s.shr <<< 1, bitn := s.bitn - 1 }

/-- The next byte, `b` being `BUF[PTR + 1]` (R176). -/
def State.nextByte (s : State) (b : Byte) : State :=
  { s with shr := b, ptr := s.ptr + 1, cnt := s.cnt - 1, bitn := 7 }

/-- The rising edge of the next symbol: `TCNT <- 0 ; PHASE <- HIGH ; DOUT <- 1` (R176). -/
def State.rise (s : State) : State := { s with tcnt := 0, phase := .high, dout := true }

/-- `PHASE <- IDLE` (R177). -/
def State.goIdle (s : State) : State := { s with phase := .idle }

end Sys2Proof.Machine
end

