-- ==== Sys2Proof/Machine/Commit.lean ====
section
/-! DEFINITION. COMMIT (42_commit_tx): its accept edge (R171), and the sequencer step that carries the frame on, one per clock
edge, until the block is idle again (R172 to R177). -/

namespace Sys2Proof.Machine

/-- COMMIT at its accept edge (R171): the critical section is entered (R215), the sequencer registers are loaded from the first
byte of the buffer, the pad goes high at this very edge. `DIR` is neither read nor written (R170, R183). -/
def execCommit (s : State) : Host.Outcome State Fault Refusal :=
  loadOne 0 s fun b => .next (s.enterCritical.startFrame b).noResponse

/-- Step in HIGH (R174): the pad falls when `TCNT + 1 = TH`. The comparison is on the exact sum (R116; log 17). -/
def sequencerHigh (s : State) : State :=
  (if s.tcnt.toNat + 1 = s.th then s.fall else s).countCycle.noResponse

/-- Step in LOW before the last cycle of the bit period (R175). -/
def sequencerLow (s : State) : State := s.countCycle.noResponse

/-- Step at the end of a bit period when more bits follow (R176). -/
def sequencerNext (s : State) : Host.Outcome State Fault Refusal :=
  if s.bitn ≠ 0 then .next s.nextBit.rise.noResponse
  else loadOne (s.ptr.toNat + 1) s fun b => .next (s.nextByte b).rise.noResponse

/-- Step at the end of the last bit period (R177): the critical section is left (R217); the other registers keep their values. -/
def sequencerEnd (s : State) : State := s.goIdle.exitCritical.noResponse

/-- One sequencer step, chosen by R173's dispatch. In IDLE there is none: only `RSP_VALID <- 0` (R221). -/
def sequencerStep (s : State) : Host.Outcome State Fault Refusal :=
  match s.phase with
  | .idle => .next s.noResponse
  | .high => .next (sequencerHigh s)
  | .low =>
    if s.tcnt.toNat + 1 < s.inst.tBit then .next (sequencerLow s)
    else if s.bitn ≠ 0 ∨ s.cnt ≠ 1 then sequencerNext s
    else .next (sequencerEnd s)

end Sys2Proof.Machine
end

