-- ==== Sys2Proof/Machine/Edit.lean ====
section
/-! DEFINITION. In-place editing of a slot: PUT.R, PUT.G, PUT.B, DIM (41_strip_commands section 5). -/

namespace Sys2Proof.Machine

/-- PUT.R (R145): `BUF[3*IDX + 1] <- V`. -/
def execPutR (idx v : Byte) (s : State) : Host.Outcome State Fault Refusal :=
  withIndex "PUT.R" idx s (storeBytes (redAt idx) [v] s)

/-- PUT.G (R146): `BUF[3*IDX + 0] <- V`. -/
def execPutG (idx v : Byte) (s : State) : Host.Outcome State Fault Refusal :=
  withIndex "PUT.G" idx s (storeBytes (greenAt idx) [v] s)

/-- PUT.B (R147): `BUF[3*IDX + 2] <- V`. -/
def execPutB (idx v : Byte) (s : State) : Host.Outcome State Fault Refusal :=
  withIndex "PUT.B" idx s (storeBytes (blueAt idx) [v] s)

/-- DIM (R148): the slot's colour is replaced by the scaled colour. -/
def execDim (idx k : Byte) (s : State) : Host.Outcome State Fault Refusal :=
  withIndex "DIM" idx s (loadColor idx s fun c => storeColor idx (dim c k) s)

end Sys2Proof.Machine
end

