-- ==== Sys2Proof/Machine/GetColor.lean ====
section
/-! DEFINITION. The commands that read a slot and write nothing but the response: GET, GET.R, GET.G, GET.B, DIMMER
(41_strip_commands sections 4 and 5). -/

namespace Sys2Proof.Machine

/-- GET (R141): responds `rgb24` of the slot's colour. -/
def execGet (idx : Byte) (s : State) : Host.Outcome State Fault Refusal :=
  withIndex "GET" idx s (loadColor idx s fun c => .next (s.respond (rgb24 c)))

/-- GET.R (R142): responds `zext_32(BUF[3*IDX + 1])`. -/
def execGetR (idx : Byte) (s : State) : Host.Outcome State Fault Refusal :=
  withIndex "GET.R" idx s (loadOne (redAt idx) s fun v => .next (s.respond (zext32 v)))

/-- GET.G (R143): responds `zext_32(BUF[3*IDX + 0])`. -/
def execGetG (idx : Byte) (s : State) : Host.Outcome State Fault Refusal :=
  withIndex "GET.G" idx s (loadOne (greenAt idx) s fun v => .next (s.respond (zext32 v)))

/-- GET.B (R144): responds `zext_32(BUF[3*IDX + 2])`. -/
def execGetB (idx : Byte) (s : State) : Host.Outcome State Fault Refusal :=
  withIndex "GET.B" idx s (loadOne (blueAt idx) s fun v => .next (s.respond (zext32 v)))

/-- DIMMER (R149): responds `rgb24` of the scaled colour; `BUF` is not written. -/
def execDimmer (idx k : Byte) (s : State) : Host.Outcome State Fault Refusal :=
  withIndex "DIMMER" idx s (loadColor idx s fun c => .next (s.respond (rgb24 (dimmer c k))))

end Sys2Proof.Machine
end

