-- ==== Sys2Proof/Machine/SetColor.lean ====
section
/-! DEFINITION. The eight SET commands (41_strip_commands section 3): each writes exactly the three bytes of slot `IDX`. -/

namespace Sys2Proof.Machine

/-- SET.RGB (R133). -/
def execSetRgb (idx r g b : Byte) (s : State) : Host.Outcome State Fault Refusal :=
  withIndex "SET.RGB" idx s (storeColor idx (literalRgb r g b) s)

/-- SET.BRGB (R134). -/
def execSetBrgb (idx k r g b : Byte) (s : State) : Host.Outcome State Fault Refusal :=
  withIndex "SET.BRGB" idx s (storeColor idx (literalBrgb k r g b) s)

/-- SET.PACKED (R135). -/
def execSetPacked (idx : Byte) (w : Word32) (s : State) : Host.Outcome State Fault Refusal :=
  withIndex "SET.PACKED" idx s (storeColor idx (literalPacked w) s)

/-- SET.SEQ0 (R136). -/
def execSetSeq0 (idx : Byte) (s : State) : Host.Outcome State Fault Refusal :=
  withIndex "SET.SEQ0" idx s (storeColor idx (literalSeq .s0) s)

/-- SET.SEQ1 (R137). -/
def execSetSeq1 (idx v0 : Byte) (s : State) : Host.Outcome State Fault Refusal :=
  withIndex "SET.SEQ1" idx s (storeColor idx (literalSeq (.s1 v0)) s)

/-- SET.SEQ2 (R138). -/
def execSetSeq2 (idx v0 v1 : Byte) (s : State) : Host.Outcome State Fault Refusal :=
  withIndex "SET.SEQ2" idx s (storeColor idx (literalSeq (.s2 v0 v1)) s)

/-- SET.SEQ3 (R139). -/
def execSetSeq3 (idx v0 v1 v2 : Byte) (s : State) : Host.Outcome State Fault Refusal :=
  withIndex "SET.SEQ3" idx s (storeColor idx (literalSeq (.s3 v0 v1 v2)) s)

/-- SET.SEQ4 (R140). -/
def execSetSeq4 (idx v0 v1 v2 v3 : Byte) (s : State) : Host.Outcome State Fault Refusal :=
  withIndex "SET.SEQ4" idx s (storeColor idx (literalSeq (.s4 v0 v1 v2 v3)) s)

end Sys2Proof.Machine
end

