-- ==== Sys2Proof/Machine/Strip.lean ====
section
/-! DEFINITION. The strip-wide commands BEGIN and SIZE (41_strip_commands section 2). -/

namespace Sys2Proof.Machine

/-- BEGIN (R131): every byte of `BUF` 0, `DIR` 1; `DOUT` is not written; no response. -/
def execBegin (s : State) : Host.Outcome State Fault Refusal :=
  storeBytes 0 (List.replicate s.inst.nbytes 0) s.configure

/-- SIZE (R132): responds `zext_32(N)`. -/
def execSize (s : State) : Host.Outcome State Fault Refusal :=
  .next (s.respond (BitVec.ofNat 32 s.inst.n))

end Sys2Proof.Machine
end

