-- ==== Sys2Proof/Machine/Dispatch.lean ====
section
/-! DEFINITION. One arm per command: what the command does at its accept edge (R130). -/

namespace Sys2Proof.Machine

def exec (i : Instr) (s : State) : Host.Outcome State Fault Refusal :=
  match i with
  | .beginStrip => Sys2Proof.Machine.execBegin s
  | .size => Sys2Proof.Machine.execSize s
  | .commit => Sys2Proof.Machine.execCommit s
  | .setRgb idx r g b => Sys2Proof.Machine.execSetRgb idx r g b s
  | .setBrgb idx k r g b => Sys2Proof.Machine.execSetBrgb idx k r g b s
  | .setPacked idx w => Sys2Proof.Machine.execSetPacked idx w s
  | .setSeq0 idx => Sys2Proof.Machine.execSetSeq0 idx s
  | .setSeq1 idx v0 => Sys2Proof.Machine.execSetSeq1 idx v0 s
  | .setSeq2 idx v0 v1 => Sys2Proof.Machine.execSetSeq2 idx v0 v1 s
  | .setSeq3 idx v0 v1 v2 => Sys2Proof.Machine.execSetSeq3 idx v0 v1 v2 s
  | .setSeq4 idx v0 v1 v2 v3 => Sys2Proof.Machine.execSetSeq4 idx v0 v1 v2 v3 s
  | .get idx => Sys2Proof.Machine.execGet idx s
  | .getR idx => Sys2Proof.Machine.execGetR idx s
  | .getG idx => Sys2Proof.Machine.execGetG idx s
  | .getB idx => Sys2Proof.Machine.execGetB idx s
  | .putR idx v => Sys2Proof.Machine.execPutR idx v s
  | .putG idx v => Sys2Proof.Machine.execPutG idx v s
  | .putB idx v => Sys2Proof.Machine.execPutB idx v s
  | .dim idx k => Sys2Proof.Machine.execDim idx k s
  | .dimmer idx k => Sys2Proof.Machine.execDimmer idx k s

end Sys2Proof.Machine
end

