-- ==== Sys2Proof/Machine/Edge.lean ====
section
/-! DEFINITION. What happens at every clock edge around a command or a sequencer step: the input ports are sampled, time
advances, a reset is taken (R230, R233), the controller may write `IE` (R16, R35). -/

namespace Sys2Proof.Machine

/-- The input ports at the next edge; after the list, the environment does nothing (R16, R36; log 10). -/
def State.input (s : State) : EdgeInput := s.inputs.headD EdgeInput.quiet

/-- The edge happens: its number is the next one, its sample is used up, `rst` is remembered for `cmd_ready` (R11, R37, R230). -/
def State.advance (s : State) : State :=
  { s with edge := s.edge + 1, inputs := s.inputs.tail, rstQ := s.input.rst }

/-- The next edge is an accept edge: `rst = 0`, `cmd_valid = 1` and `cmd_ready = 1` (R37). -/
def State.accepts (s : State) : Bool := !s.input.rst && s.input.cmdValid && s.cmdReady

/-- The state a reset edge leaves, `s` being the state at the edge with its number already advanced (R41, R230). `DIR`, `DOUT`,
`PHASE` and `RSP_VALID` take the spec's values; `BUF` has unspecified contents again; the other registers are unspecified: free
values (log 6). `IE` is not written, but where the reset cuts a frame it is unspecified afterwards (R233, U11; log 8). -/
def State.takeReset (s : State) : State :=
  { s with
    bufKey := s.edge
    buf := []
    dir := false
    dout := false
    phase := .idle
    ptr := Config.freePtr s.edge
    cnt := Config.freeCnt s.edge
    bitn := Config.freeBitn s.edge
    shr := Config.freeShr s.edge
    tcnt := Config.freeTcnt s.edge
    rsp := Config.freeRsp s.edge
    rspValid := false
    savedIe := Config.freeSavedIe s.edge
    ie := if s.busy then Config.freeIe s.edge else s.ie }

/-- The controller's write of `IE` at an edge, if it makes one (R16, R35). -/
def State.writeIe (s : State) (w : Option Bool) : State := { s with ie := w.getD s.ie }

/-- The controller writes `IE` only where `BUSY = 0` before the edge (`s`) and after it (`t`): during a frame, at its accept edge
and at its last edge only the block writes it (R16, R35, R219; log 11). -/
def controllerIe (s t : State) : State := if s.busy || t.busy then t else t.writeIe s.input.ieWrite

/-- The outcome of the block's own part of an edge, with the controller's write of `IE` added. -/
def withController (s : State) : Host.Outcome State Fault Refusal → Host.Outcome State Fault Refusal
  | .next t => .next (controllerIe s t)
  | .fault f => .fault f
  | .refused r => .refused r

end Sys2Proof.Machine
end

