-- ==== Sys2Proof/Machine/Step.lean ====
section
/-! DEFINITION. One step of the machine: one clock edge (R11), with R221's precedence. -/

namespace Sys2Proof.Machine

/-- The block's part of an edge (R221): a reset and nothing else; else, while a frame runs, one sequencer step; else, at an
accept edge, the command on `cmd`; else only `RSP_VALID <- 0`. -/
def edgeEffect (s : State) : Host.Outcome State Fault Refusal :=
  if s.input.rst then .next s.advance.takeReset
  else if s.busy then sequencerStep s.advance
  else if s.accepts then
    match decode s.input.cmd with
    | .ok i => exec i s.advance
    | .error _ => .refused (.reservedWord s.input.cmd)
  else .next s.advance.noResponse

/-- One clock edge. -/
def step (s : State) : Host.Outcome State Fault Refusal := withController s (edgeEffect s)

/-- The state with the command word `w` presented at the next edge and the port ready, so that the next step performs it: the
block is idle, the last edge was no reset edge, the next sample is the command. Nothing else changes (log 13). -/
def State.withCommand (s : State) (w : CmdWord) : State :=
  { s with phase := .idle, rstQ := false, inputs := EdgeInput.present w :: s.inputs.tail }

/-- The command word with bits `w` (numbered as spec/opcode_table.json numbers them; bits from `nbits` up are 0) presented at the
next edge. The block fetches nothing (R21): its program is what the host presents (log 13). -/
def State.withFetchWord (s : State) (nbits w : Nat) : State := s.withCommand (BitVec.ofNat 48 (w % 2 ^ nbits))

end Sys2Proof.Machine
end

