-- ==== Sys2Proof/Machine/Assembler.lean ====
section
/-! DEFINITION. The assembler syntax (30_encoding R84, R85, R86): a line of text to a command and the response expected. It is
for writing test programs; the hardware sees only the words. Text is a list of characters (log 21). -/

namespace Sys2Proof.Machine.Asm

/-- The operation names of R84 and R86; `setName` is `SET`, whose operand is a named colour. -/
inductive Op where
  | beginStrip
  | size
  | commit
  | setRgb
  | setBrgb
  | setPacked
  | setSeq
  | setName
  | get
  | getR
  | getG
  | getB
  | putR
  | putG
  | putB
  | dim
  | dimmer
  deriving DecidableEq, Repr

/-- The spellings of the operation names (R84, R86). -/
def opNames : List (List Char × Op) :=
  [ (['B', 'E', 'G', 'I', 'N'], .beginStrip), (['S', 'I', 'Z', 'E'], .size),
    (['C', 'O', 'M', 'M', 'I', 'T'], .commit), (['S', 'E', 'T', '.', 'R', 'G', 'B'], .setRgb),
    (['S', 'E', 'T', '.', 'B', 'R', 'G', 'B'], .setBrgb),
    (['S', 'E', 'T', '.', 'P', 'A', 'C', 'K', 'E', 'D'], .setPacked),
    (['S', 'E', 'T', '.', 'S', 'E', 'Q'], .setSeq), (['S', 'E', 'T'], .setName),
    (['G', 'E', 'T'], .get), (['G', 'E', 'T', '.', 'R'], .getR), (['G', 'E', 'T', '.', 'G'], .getG),
    (['G', 'E', 'T', '.', 'B'], .getB), (['P', 'U', 'T', '.', 'R'], .putR), (['P', 'U', 'T', '.', 'G'], .putG),
    (['P', 'U', 'T', '.', 'B'], .putB), (['D', 'I', 'M'], .dim), (['D', 'I', 'M', 'M', 'E', 'R'], .dimmer) ]

/-- The spellings of the named colours (R86). -/
def colorNames : List (List Char × ColorName) :=
  [ (['B', 'L', 'A', 'C', 'K'], .black), (['O', 'F', 'F'], .off), (['R', 'E', 'D'], .red),
    (['G', 'R', 'E', 'E', 'N'], .green), (['B', 'L', 'U', 'E'], .blue), (['W', 'H', 'I', 'T', 'E'], .white) ]

/-- One operand as written. -/
inductive Operand where
  | num (v : Nat)
  | name (cs : List Char)
  | seq (vs : List Nat)
  deriving DecidableEq, Repr

/-- Why a line is refused. -/
inductive Reject where
  /-- A character sequence that is no number and stands where one must. -/
  | number (cs : List Char)
  /-- The line does not have the form `NAME operand, operand, ...`. -/
  | form
  /-- The first word names no operation. -/
  | unknown (cs : List Char)
  /-- The operands are not those of the operation (R84, R85); a sequence of more than four bytes is one case (R79, U14). -/
  | operands
  /-- A number does not fit its field (R75 to R80). -/
  | range (v : Nat)
  deriving DecidableEq, Repr

/-! ## Lines as data -/

/-- A byte operand or an index. -/
def byte (v : Nat) : Except Reject Byte := if v < 256 then .ok (BitVec.ofNat 8 v) else .error (.range v)

/-- A 32-bit operand or response. -/
def word (v : Nat) : Except Reject Word32 := if v < 2 ^ 32 then .ok (BitVec.ofNat 32 v) else .error (.range v)

/-- `SET.SEQ` picks SET.SEQ0 to SET.SEQ4 by the number of bytes in the braces (R84). -/
def seqCommand (idx : Byte) : ByteSeq → Instr
  | .s0 => .setSeq0 idx
  | .s1 v0 => .setSeq1 idx v0
  | .s2 v0 v1 => .setSeq2 idx v0 v1
  | .s3 v0 v1 v2 => .setSeq3 idx v0 v1 v2
  | .s4 v0 v1 v2 v3 => .setSeq4 idx v0 v1 v2 v3

/-- `SET.SEQ i, (bytes)` (R79, R84). -/
def seqLine (i : Nat) (vs : List Nat) : Except Reject Instr := do
  let idx ← byte i
  let bytes ← vs.mapM byte
  match ByteSeq.ofList bytes with
  | some v => pure (seqCommand idx v)
  | none => .error .operands

/-- `SET i, name` is `SET.RGB i, r, g, b` with the channels of the named colour (R86). -/
def namedCommand (idx : Byte) (c : ColorName) : Instr := .setRgb idx (red c.color) (green c.color) (blue c.color)

/-- `SET i, name` (R86). -/
def nameLine (i : Nat) (cs : List Char) : Except Reject Instr := do
  let idx ← byte i
  match colorNames.lookup cs with
  | some c => pure (namedCommand idx c)
  | none => .error .operands

/-- A command with an index and no other operand. -/
def line0 (f : Byte → Instr) (i : Nat) : Except Reject Instr := do
  pure (f (← byte i))

/-- A command with an index and one byte. -/
def line1 (f : Byte → Byte → Instr) (i v : Nat) : Except Reject Instr := do
  pure (f (← byte i) (← byte v))

/-- The command of a line (R84); without its index operand a SET, GET, PUT, DIM or DIMMER line means index 0 (R85). -/
def assemble : Op → List Operand → Except Reject Instr
  | .beginStrip, [] => .ok .beginStrip
  | .size, [] => .ok .size
  | .commit, [] => .ok .commit
  | .setRgb, [.num i, .num r, .num g, .num b] => do
    pure (.setRgb (← byte i) (← byte r) (← byte g) (← byte b))
  | .setRgb, [.num r, .num g, .num b] => do
    pure (.setRgb 0 (← byte r) (← byte g) (← byte b))
  | .setBrgb, [.num i, .num k, .num r, .num g, .num b] => do
    pure (.setBrgb (← byte i) (← byte k) (← byte r) (← byte g) (← byte b))
  | .setBrgb, [.num k, .num r, .num g, .num b] => do
    pure (.setBrgb 0 (← byte k) (← byte r) (← byte g) (← byte b))
  | .setPacked, [.num i, .num w] => do
    pure (.setPacked (← byte i) (← word w))
  | .setPacked, [.num w] => do
    pure (.setPacked 0 (← word w))
  | .setSeq, [.num i, .seq vs] => seqLine i vs
  | .setSeq, [.seq vs] => seqLine 0 vs
  | .setName, [.num i, .name cs] => nameLine i cs
  | .setName, [.name cs] => nameLine 0 cs
  | .get, [.num i] => line0 .get i
  | .get, [] => line0 .get 0
  | .getR, [.num i] => line0 .getR i
  | .getR, [] => line0 .getR 0
  | .getG, [.num i] => line0 .getG i
  | .getG, [] => line0 .getG 0
  | .getB, [.num i] => line0 .getB i
  | .getB, [] => line0 .getB 0
  | .putR, [.num i, .num v] => line1 .putR i v
  | .putR, [.num v] => line1 .putR 0 v
  | .putG, [.num i, .num v] => line1 .putG i v
  | .putG, [.num v] => line1 .putG 0 v
  | .putB, [.num i, .num v] => line1 .putB i v
  | .putB, [.num v] => line1 .putB 0 v
  | .dim, [.num i, .num k] => line1 .dim i k
  | .dim, [.num k] => line1 .dim 0 k
  | .dimmer, [.num i, .num k] => line1 .dimmer i k
  | .dimmer, [.num k] => line1 .dimmer 0 k
  | _, _ => .error .operands

/-! ## Text -/

/-- A token of a line. -/
inductive Tok where
  | text (cs : List Char)
  | comma
  | lbrace
  | rbrace
  | arrow
  deriving DecidableEq, Repr

/-- The pending characters, gathered in reverse, as a token. -/
def flush (acc : List Char) (rest : List Tok) : List Tok := if acc.isEmpty then rest else .text acc.reverse :: rest

/-- The tokens of a line; `;` starts a comment (R84). -/
def lex (acc : List Char) : List Char → List Tok
  | [] => flush acc []
  | '-' :: '>' :: cs => flush acc (.arrow :: lex [] cs)
  | c :: cs =>
    if c = ';' then flush acc []
    else if c = ' ' ∨ c = '\t' then flush acc (lex [] cs)
    else if c = ',' then flush acc (.comma :: lex [] cs)
    else if c.toNat = 0x7B then flush acc (.lbrace :: lex [] cs)
    else if c.toNat = 0x7D then flush acc (.rbrace :: lex [] cs)
    else lex (c :: acc) cs

/-- The value of a digit. -/
def digit (c : Char) : Option Nat :=
  if '0'.toNat ≤ c.toNat ∧ c.toNat ≤ '9'.toNat then some (c.toNat - '0'.toNat)
  else if 'a'.toNat ≤ c.toNat ∧ c.toNat ≤ 'f'.toNat then some (c.toNat - 'a'.toNat + 10)
  else if 'A'.toNat ≤ c.toNat ∧ c.toNat ≤ 'F'.toNat then some (c.toNat - 'A'.toNat + 10)
  else none

/-- The digits of a number in a base, most significant first, after a value `v`. -/
def digits (base v : Nat) : List Char → Option Nat
  | [] => some v
  | c :: cs =>
    match digit c with
    | some d => if d < base then digits base (v * base + d) cs else none
    | none => none

/-- A number: decimal, `0x` hexadecimal or `0b` binary (R84). -/
def number : List Char → Option Nat
  | [] => none
  | '0' :: 'x' :: c :: cs => digits 16 0 (c :: cs)
  | '0' :: 'b' :: c :: cs => digits 2 0 (c :: cs)
  | cs => digits 10 0 cs

/-- A text token as an operand: a number if it begins with a digit, else a name. -/
def textOperand (cs : List Char) : Except Reject Operand :=
  match cs with
  | [] => .error .form
  | c :: _ =>
    if '0'.toNat ≤ c.toNat ∧ c.toNat ≤ '9'.toNat then
      match number cs with
      | some v => .ok (.num v)
      | none => .error (.number cs)
    else .ok (.name cs)

/-- A text token as a number. -/
def textNumber (cs : List Char) : Except Reject Nat :=
  match number cs with
  | some v => .ok v
  | none => .error (.number cs)

/-- Where the reader of the operands stands. -/
inductive Place where
  /-- No operand yet: an operand, `->` or the end may follow. -/
  | first
  /-- After a comma: an operand must follow. -/
  | want
  /-- After an operand: a comma, `->` or the end may follow. -/
  | done
  /-- After an opening brace. -/
  | inside
  /-- Inside braces, after a comma. -/
  | insideWant
  /-- Inside braces, after a number. -/
  | insideDone
  deriving DecidableEq, Repr

/-- The operands of a line, separated by commas, and the response expected after `->` (R84). `seq` holds the numbers read inside
braces and `acc` the operands read, both in reverse. -/
def operands (p : Place) (seq : List Nat) (acc : List Operand) :
    List Tok → Except Reject (List Operand × Option Word32)
  | [] => if p = .first ∨ p = .done then .ok (acc.reverse, none) else .error .form
  | [.arrow, .text cs] =>
    if p = .first ∨ p = .done then do
      let v ← word (← textNumber cs)
      pure (acc.reverse, some v)
    else .error .form
  | .text cs :: ts =>
    match p with
    | .first | .want => do operands .done [] ((← textOperand cs) :: acc) ts
    | .inside | .insideWant => do operands .insideDone ((← textNumber cs) :: seq) acc ts
    | .done | .insideDone => .error .form
  | .comma :: ts =>
    match p with
    | .done => operands .want [] acc ts
    | .insideDone => operands .insideWant seq acc ts
    | .first | .want | .inside | .insideWant => .error .form
  | .lbrace :: ts => if p = .first ∨ p = .want then operands .inside [] acc ts else .error .form
  | .rbrace :: ts =>
    if p = .inside ∨ p = .insideDone then operands .done [] (.seq seq.reverse :: acc) ts else .error .form
  | .arrow :: _ => .error .form

/-- What a line of text says (R84). -/
inductive Line where
  /-- A blank line, or a comment. -/
  | blank
  /-- A command, and the response expected where `->` follows it on the same line. -/
  | command (i : Instr) (expected : Option Word32)
  /-- A line `-> v`: the response expected of the command before it. -/
  | expect (v : Word32)
  deriving DecidableEq, Repr

/-- A line of text (R84). -/
def parseLine (line : List Char) : Except Reject Line :=
  match lex [] line with
  | [] => .ok .blank
  | [.arrow, .text cs] => do pure (.expect (← word (← textNumber cs)))
  | .text cs :: ts =>
    match opNames.lookup cs with
    | none => .error (.unknown cs)
    | some op => do
      let (ops, expected) ← operands .first [] [] ts
      let i ← assemble op ops
      pure (.command i expected)
  | _ :: _ => .error .form

/-- The command word of a line of text, if it holds a command. -/
def lineWord (line : List Char) : Except Reject (Option CmdWord) := do
  match ← parseLine line with
  | .blank | .expect _ => pure none
  | .command i _ => pure (some (encode i))

/-- The commands of a test program, each with the response expected of it; `acc` holds those read, the last one first. A response line with no command
before it, or after one that has its response already, is refused (R84). -/
def program (acc : List (Instr × Option Word32)) : List (List Char) → Except Reject (List (Instr × Option Word32))
  | [] => .ok acc.reverse
  | l :: ls => do
    match ← parseLine l, acc with
    | .blank, _ => program acc ls
    | .command i e, _ => program ((i, e) :: acc) ls
    | .expect v, (i, none) :: acc' => program ((i, some v) :: acc') ls
    | .expect _, _ => .error .form

end Sys2Proof.Machine.Asm
end

