-- ==== Sys2Proof/Machine/Frame.lean ====
section
/-! DEFINITION. The wire form of the buffer in closed form (30_encoding R82, R83; 42_commit_tx R180, R185): what a frame looks
like, said without the sequencer. Statements compare the sequencer with it. -/

namespace Sys2Proof.Machine

/-- The symbol of one bit: cycles high, then cycles low (R82). -/
def symbol (p : Config.Params) (bit : Bool) : Nat × Nat := (p.highCycles bit, p.tBit - p.highCycles bit)

/-- `v_q = BUF[q div 8][7 - (q mod 8)]` (R83, R180). -/
def State.frameBit (s : State) (q : Nat) : Bool := (s.loadByte (q / 8)).getLsbD (7 - q % 8)

/-- The `24*N` bits of a frame, first sent first (R83). -/
def State.frameBits (s : State) : List Bool := (List.range (24 * s.inst.n)).map s.frameBit

/-- The frame as a list of `24*N` pulses (R185). -/
def State.pulses (s : State) : List (Nat × Nat) := s.frameBits.map (symbol s.inst)

/-- `DOUT` in cycle `e0 + c` of a frame of the buffer of `s` (R180). -/
def State.waveform (s : State) (c : Nat) : Bool :=
  decide (c % s.inst.tBit < s.inst.highCycles (s.frameBit (c / s.inst.tBit)))

/-- The levels, cycle by cycle, of one pulse. -/
def pulseLevels (p : Nat × Nat) : List Bool := List.replicate p.1 true ++ List.replicate p.2 false

/-- The levels, cycle by cycle, of the whole frame. -/
def State.frameLevels (s : State) : List Bool := s.pulses.flatMap pulseLevels

/-- The bits LED `i` of the chain takes, `24*i` to `24*i + 23` (R188; informative: the chain is the environment). -/
def State.ledBits (s : State) (i : Nat) : List Bool := (List.range 24).map fun j => s.frameBit (24 * i + j)

end Sys2Proof.Machine
end

