-- ==== Sys2Proof/Machine/Ports.lean ====
section
/-! DEFINITION. The output ports (R36) and the observation (R13). `ie_clr` and `ie_set` are requests to the controller in the
cycle before the edge at which `IE` changes (R215, R217); the model's `IE` is the shared bit itself (log 20). -/

namespace Sys2Proof.Machine

/-- `ie_clr`: the next edge accepts a COMMIT (R215). -/
def State.ieClr (s : State) : Bool :=
  s.accepts && (match decode s.input.cmd with
    | .ok i => decide (i = .commit)
    | .error _ => false)

/-- The next edge is the last of a frame (R173, R177). -/
def State.frameEnds (s : State) : Bool :=
  !s.input.rst && s.phase == .low && decide (s.inst.tBit ≤ s.tcnt.toNat + 1) && s.bitn == 0 && s.cnt == 1

/-- `ie_set`: the next edge is the last of a frame, and the saved enable is 1 (R217). -/
def State.ieSet (s : State) : Bool := s.frameEnds && s.savedIe

/-- The output ports in a cycle (R36). -/
structure OutPorts where
  cmdReady : Bool
  rspValid : Bool
  rsp : Word32
  ieClr : Bool
  ieSet : Bool
  padOut : Bool
  padOe : Bool
  deriving DecidableEq, Repr

/-- R36: `rsp_valid = RSP_VALID`, `rsp = RSP` (R33), `pad_out = DOUT`, `pad_oe = DIR` (R26). -/
def State.outPorts (s : State) : OutPorts where
  cmdReady := s.cmdReady
  rspValid := s.rspValid
  rsp := s.rsp
  ieClr := s.ieClr
  ieSet := s.ieSet
  padOut := s.dout
  padOe := s.dir

/-- What can be observed of the block in one cycle (R13): a response, if there is one; the pad; the interrupt enable; `BUF`. -/
structure Observation where
  response : Option Word32
  padOe : Bool
  padOut : Bool
  ie : Bool
  buf : List Byte
  deriving DecidableEq, Repr

/-- R13. -/
def State.observe (s : State) : Observation where
  response := if s.rspValid then some s.rsp else none
  padOe := s.dir
  padOut := s.dout
  ie := s.ie
  buf := (List.range s.inst.nbytes).map s.loadByte

end Sys2Proof.Machine
end

