-- ==== Sys2Proof/Machine/Run.lean ====
section
/-! DEFINITION. Runs (R15): some number of edges, the trace of a quantity over them, and a run: one reset edge, then a host that presents
a list of words in order, each after any number of idle edges and held until its accept edge. -/

namespace Sys2Proof.Machine

/-- `k` edges. -/
def runSteps : Nat → State → Host.Outcome State Fault Refusal
  | 0, s => .next s
  | k + 1, s =>
    match step s with
    | .next t => runSteps k t
    | .fault f => .fault f
    | .refused r => .refused r

/-- The values of `f` in `k` successive cycles, the present one first; shorter if the machine stops. -/
def traceOf {α : Type} (f : State → α) : Nat → State → List α
  | 0, _ => []
  | k + 1, s =>
    f s :: (match step s with
      | .next t => traceOf f k t
      | .fault _ => []
      | .refused _ => [])

/-- The observation trace (R13). -/
def observations : Nat → State → List Observation := traceOf State.observe

/-- A command word and the number of idle edges the host leaves before it presents it (R15). -/
structure Turn where
  idle : Nat
  word : CmdWord
  deriving DecidableEq, Repr

/-- The host asserts `rst` at the next edge; the other inputs of the edge stay (R15, R230). -/
def State.assertReset (s : State) : State :=
  { s with inputs := { s.input with rst := true } :: s.inputs.tail }

/-- The host holds `w` on `cmd` with `cmd_valid = 1` at the next edge. A run has one reset edge, its first, so `rst` is 0 here; the
controller's write of `IE` at the edge stays (R15, R16). -/
def State.hold (s : State) (w : CmdWord) : State :=
  { s with inputs := { s.input with rst := false, cmdValid := true, cmd := w } :: s.inputs.tail }

/-- The host presents nothing at the next edge, an idle edge of the run (R15). -/
def State.holdNone (s : State) : State :=
  { s with inputs := { s.input with rst := false, cmdValid := false } :: s.inputs.tail }

/-- The state with the host's inputs of the next edge, and what the host has still to present after an edge that is no accept edge:
an idle edge uses up one of the idle edges before the next word; a word is held (R15). -/
def hostDrives : List Turn → State → State × List Turn
  | [], s => (s.holdNone, [])
  | ⟨n + 1, w⟩ :: rest, s => (s.holdNone, ⟨n, w⟩ :: rest)
  | ⟨0, w⟩ :: rest, s => (s.hold w, ⟨0, w⟩ :: rest)

/-- One edge with a host that has the words `ws` still to present: the next state and the words left, a word being taken off at
its accept edge (R15, R37). -/
def hostStep (ws : List Turn) (s : State) : Except (Fault ⊕ Refusal) (List Turn × State) :=
  let (driven, left) := hostDrives ws s
  match step driven with
  | .next t => .ok (if driven.accepts then left.tail else left, t)
  | .fault f => .error (.inl f)
  | .refused r => .error (.inr r)

/-- The end of a run: every word has been accepted and no frame is in progress (R15). -/
def runEnded (ws : List Turn) (s : State) : Bool := ws.isEmpty && !s.busy

/-- A run of the words `ws` after its reset edge, for at most `fuel` edges: the end state, or none where it has not ended by then;
a run with a refused command has no end state (R15). -/
def runWords : Nat → List Turn → State → Except (Fault ⊕ Refusal) (Option State)
  | 0, ws, s => .ok (if runEnded ws s then some s else none)
  | fuel + 1, ws, s =>
    if runEnded ws s then .ok (some s)
    else match hostStep ws s with
      | .ok (ws', t) => runWords fuel ws' t
      | .error e => .error e

/-- A run (R15), from any state: one reset edge, then the words, each after its idle edges and held until its accept edge; at most
`fuel` edges after the reset edge. -/
def run (fuel : Nat) (ws : List Turn) (s : State) : Except (Fault ⊕ Refusal) (Option State) :=
  match step s.assertReset with
  | .next t => runWords fuel ws t
  | .fault f => .error (.inl f)
  | .refused r => .error (.inr r)

end Sys2Proof.Machine
end

