-- ==== Sys2Proof/WellFormed.lean ====
section
/-! DEFINITION. Which commands are well formed for an instance. Every operand is a byte or a 32-bit word by its type, so the
one check left is the index range (R55, R75): a word with `IDX >= N` decodes, and is refused by value (R73). -/

namespace Sys2Proof

/-- The index, where the command has one, names an LED of the instance: `0 <= IDX < N` (R55, R75). -/
def WellFormed (p : Config.Params) (i : Instr) : Bool :=
  match i.index? with
  | none => true
  | some idx => decide (idx.toNat < p.n)

end Sys2Proof
end

