-- ==== Sys2Proof/Safety.lean ====
section
/-! DEFINITION. What counts as a safe run, in the terms statements use: the invariant of the block (R42), the frames of the
commands (R130, R150), the duties of the environment (R16, R219, R241). -/

namespace Sys2Proof.Machine

/-! ## The invariant -/

/-- The buffer's listed bytes are in canonical form and lie inside the buffer (R23, R50). -/
def State.bufInv (s : State) : Bool := s.buf.wf && s.buf.within s.inst.nbytes

/-- R42(a), (b): `DOUT = 1` if and only if `PHASE = HIGH`, so idle implies low. -/
def State.doutInv (s : State) : Bool := s.dout == (s.phase == .high)

/-- R42(c): while `BUSY`, `PTR + CNT = NBYTES`, `1 <= CNT <= NBYTES`, `0 <= TCNT < TBIT`, `IE = 0`. -/
def State.frameInv (s : State) : Bool :=
  !s.busy || (decide (s.ptr.toNat + s.cnt.toNat = s.inst.nbytes) && decide (1 ≤ s.cnt.toNat) &&
    decide (s.tcnt.toNat < s.inst.tBit) && !s.ie)

/-- In `HIGH` the high time of the symbol is not over (R174). -/
def State.highInv (s : State) : Bool := s.phase != .high || decide (s.tcnt.toNat < s.th)

/-- After a reset edge the block is unconfigured and idle, with no response (R41, R230). -/
def State.resetInv (s : State) : Bool := !s.rstQ || (!s.dir && !s.busy && !s.rspValid)

/-- The invariant of the block: R42, with the canonical form of the buffer. -/
abbrev State.Inv (s : State) : Prop :=
  s.bufInv = true ∧ s.doutInv = true ∧ s.frameInv = true ∧ s.highInv = true ∧ s.resetInv = true

/-- Every byte of `BUF` has been written since the last reset, so it has a defined value (R236). -/
def State.bufDefined (s : State) : Bool := (List.range s.inst.nbytes).all fun a => (s.buf.read a).isSome

/-- The interrupt enable as the program outside the block sees it: what `IE` is when no frame runs, and what it will be again
when the running frame ends (R217, R218). -/
def State.programIe (s : State) : Bool := if s.busy then s.savedIe else s.ie

/-! ## Frames of the commands -/

/-- Nothing changes but `BUF`, `RSP` and `RSP_VALID`: "No command but BEGIN writes `DIR`; no command but COMMIT writes `DOUT`,
`PHASE`, the sequencer registers, `SAVED_IE` or `IE`" (R130, R43). The instance and the model's own fields stay too. -/
def KeepsControl (s t : State) : Prop :=
  t.inst = s.inst ∧ t.edge = s.edge ∧ t.bufKey = s.bufKey ∧ t.dir = s.dir ∧ t.dout = s.dout ∧ t.phase = s.phase ∧
  t.ptr = s.ptr ∧ t.cnt = s.cnt ∧ t.bitn = s.bitn ∧ t.shr = s.shr ∧ t.tcnt = s.tcnt ∧ t.savedIe = s.savedIe ∧
  t.ie = s.ie ∧ t.rstQ = s.rstQ ∧ t.inputs = s.inputs

/-- The command does not respond: `RSP` kept, `RSP_VALID` 0 (R33, R130). -/
def NoResponse (s t : State) : Prop := t.rsp = s.rsp ∧ t.rspValid = false

/-- The command responds with `v` (R33). -/
def Responds (v : Word32) (t : State) : Prop := t.rsp = v ∧ t.rspValid = true

/-- Every byte of `BUF` outside the `n` bytes from `a` up reads as before. -/
def BytesKeptOutside (a n : Nat) (s t : State) : Prop :=
  ∀ x, x < a ∨ a + n ≤ x → t.loadByte x = s.loadByte x

/-- Every byte of `BUF` reads as before. -/
def BytesKept (s t : State) : Prop := ∀ x, t.loadByte x = s.loadByte x

/-- Slot `idx` holds the colour with the channels `r`, `g`, `b`: green, red, blue at rising addresses from `3*IDX` (R50, R52). -/
def SlotHolds (t : State) (idx r g b : Byte) : Prop :=
  t.loadByte (3 * idx.toNat) = g ∧ t.loadByte (3 * idx.toNat + 1) = r ∧ t.loadByte (3 * idx.toNat + 2) = b

/-- The command completes at `s`, stores the colour `r`, `g`, `b` in slot `idx`, and changes nothing else but `RSP_VALID`, which is
0 after it (R130, R133 to R140). -/
def StoresColour (i : Instr) (s : State) (idx r g b : Byte) : Prop :=
  ∃ t, exec i s = .next t ∧ SlotHolds t idx r g b ∧ BytesKeptOutside (3 * idx.toNat) 3 s t ∧ NoResponse s t ∧
    KeepsControl s t

/-- The command completes at `s`, responds with `v`, and changes nothing else (R130, R141 to R144, R149). -/
def RespondsOnly (i : Instr) (s : State) (v : Word32) : Prop :=
  ∃ t, exec i s = .next t ∧ Responds v t ∧ t.buf = s.buf ∧ BytesKept s t ∧ KeepsControl s t

/-- The index and the colour of a SET command (R133 to R140). -/
def setLiteral : Instr → Option (Byte × Color)
  | .setRgb idx r g b => some (idx, mkRGB r g b)
  | .setBrgb idx k r g b => some (idx, mkBRGB k r g b)
  | .setPacked idx w => some (idx, mkPacked w)
  | .setSeq0 idx => some (idx, mkSeq .s0)
  | .setSeq1 idx v0 => some (idx, mkSeq (.s1 v0))
  | .setSeq2 idx v0 v1 => some (idx, mkSeq (.s2 v0 v1))
  | .setSeq3 idx v0 v1 v2 => some (idx, mkSeq (.s3 v0 v1 v2))
  | .setSeq4 idx v0 v1 v2 v3 => some (idx, mkSeq (.s4 v0 v1 v2 v3))
  | .beginStrip | .size | .commit | .get _ | .getR _ | .getG _ | .getB _ => none
  | .putR _ _ | .putG _ _ | .putB _ _ | .dim _ _ | .dimmer _ _ => none

/-- The effects of a list of commands, one after the other. -/
def execAll : List Instr → State → Host.Outcome State Fault Refusal
  | [], s => .next s
  | i :: is, s =>
    match exec i s with
    | .next t => execAll is t
    | .fault f => .fault f
    | .refused r => .refused r

/-! ## Duties of the environment -/

/-- No reset at any of the next `k` edges. -/
def State.noResetFor (s : State) (k : Nat) : Bool := (s.inputs.take k).all fun i => !i.rst

/-- The inter-frame gap the LEDs need, the host's duty and not enforced by the block (R241, U10): the line has been low for
`lowCycles` cycles. -/
def gapKept (p : Config.Params) (lowCycles : Nat) : Prop := Config.tLatchSeconds ≤ p.seconds lowCycles

end Sys2Proof.Machine
end

