-- ==== Sys2Proof/Certificates/Slice0/Obligations.lean ====
section
/-! DEFINITION. The statements for the provers, each a definition `Obligations.<Name> : Prop`, in the order of OBLIGATIONS.json. -/

open Sys2Proof Sys2Proof.Machine

/-! ## Encoding and decoding (30_encoding) -/

/-- The masks and matches of R72, transcribed from its table. -/
def Sys2Proof.Machine.maskTable : List (CmdWord × CmdWord) :=
  [ (0xFFFFFFFFFFFF, 0x010000000000), (0xFFFFFFFFFFFF, 0x020000000000), (0xFFFFFFFFFFFF, 0x030000000000),
    (0xFF00FF000000, 0x100000000000), (0xFF0000000000, 0x110000000000), (0xFF0000000000, 0x120000000000),
    (0xFF00FFFFFFFF, 0x180000000000), (0xFF00FFFFFF00, 0x190000000000), (0xFF00FFFF0000, 0x1A0000000000),
    (0xFF00FF000000, 0x1B0000000000), (0xFF0000000000, 0x1C0000000000), (0xFF00FFFFFFFF, 0x200000000000),
    (0xFF00FFFFFFFF, 0x210000000000), (0xFF00FFFFFFFF, 0x220000000000), (0xFF00FFFFFFFF, 0x230000000000),
    (0xFF00FFFFFF00, 0x290000000000), (0xFF00FFFFFF00, 0x2A0000000000), (0xFF00FFFFFF00, 0x2B0000000000),
    (0xFF00FFFFFF00, 0x300000000000), (0xFF00FFFFFF00, 0x310000000000) ]

/-- The words of a command, as its rule gives them: a word matches `mask` and `pat` exactly when it decodes to the command `i` builds from
its fields. -/
def Sys2Proof.Machine.Encoded (mask pat : CmdWord) (i : CmdWord → Instr) : Prop :=
  ∀ w : CmdWord, w &&& mask = pat ↔ decode w = .ok (i w)

/-- Decoding the word of any command gives the command back, with every operand at every value (R70 to R72, R74). -/
def Obligations.DecodeOfEncodeIsIdentity : Prop := ∀ i : Instr, decode (encode i) = .ok i

/-- A word that decodes is the word of the command it decodes to: each command has one word (R70 to R72, R74). -/
def Obligations.EncodeOfDecodeIsIdentity : Prop := ∀ (w : CmdWord) (i : Instr), decode w = .ok i → encode i = w

/-- Decoding is total: a word is a command exactly when it matches a row of R72, and reserved exactly when it matches none
(R73, R74). -/
def Obligations.DecodeAcceptsExactlyTheRows : Prop :=
  ∀ w : CmdWord, ((∃ i, decode w = .ok i) ↔ ∃ p ∈ maskTable, w &&& p.1 = p.2) ∧
    ((∃ e, decode w = .error e) ↔ ∀ p ∈ maskTable, w &&& p.1 ≠ p.2)

/-- "No two rows overlap" (R72): the decoder's opcode table has the masks and matches of R72, row by row, and no word is accepted by two
of its rows. -/
def Obligations.OpcodeRowsDoNotOverlap : Prop :=
  (opcodeTable.map fun r => (r.mask, r.pat)) = maskTable ∧
  opcodeTable.Pairwise fun p q => ∀ w : CmdWord, ¬ (p.accepts w = true ∧ q.accepts w = true)

/-- The operands of every row, at the bits R70, R71 and R76 to R80 give them: a word that matches a row of R72 decodes to the row's
command with `IDX = word[39:32]` and the named bytes of `ARG = word[31:0]`. -/
def Obligations.RowsDecodeToTheirOperands : Prop :=
  ∀ w : CmdWord,
    let idx : Byte := w.extractLsb' 32 8
    let b3 : Byte := w.extractLsb' 24 8
    let b2 : Byte := w.extractLsb' 16 8
    let b1 : Byte := w.extractLsb' 8 8
    let b0 : Byte := w.extractLsb' 0 8
    (w &&& 0xFFFFFFFFFFFF = 0x010000000000 → decode w = .ok .beginStrip) ∧
    (w &&& 0xFFFFFFFFFFFF = 0x020000000000 → decode w = .ok .size) ∧
    (w &&& 0xFFFFFFFFFFFF = 0x030000000000 → decode w = .ok .commit) ∧
    (w &&& 0xFF00FF000000 = 0x100000000000 → decode w = .ok (.setRgb idx b2 b1 b0)) ∧
    (w &&& 0xFF0000000000 = 0x110000000000 → decode w = .ok (.setBrgb idx b3 b2 b1 b0)) ∧
    (w &&& 0xFF0000000000 = 0x120000000000 → decode w = .ok (.setPacked idx (w.extractLsb' 0 32))) ∧
    (w &&& 0xFF00FFFFFFFF = 0x180000000000 → decode w = .ok (.setSeq0 idx)) ∧
    (w &&& 0xFF00FFFFFF00 = 0x190000000000 → decode w = .ok (.setSeq1 idx b0)) ∧
    (w &&& 0xFF00FFFF0000 = 0x1A0000000000 → decode w = .ok (.setSeq2 idx b1 b0)) ∧
    (w &&& 0xFF00FF000000 = 0x1B0000000000 → decode w = .ok (.setSeq3 idx b2 b1 b0)) ∧
    (w &&& 0xFF0000000000 = 0x1C0000000000 → decode w = .ok (.setSeq4 idx b3 b2 b1 b0)) ∧
    (w &&& 0xFF00FFFFFFFF = 0x200000000000 → decode w = .ok (.get idx)) ∧
    (w &&& 0xFF00FFFFFFFF = 0x210000000000 → decode w = .ok (.getR idx)) ∧
    (w &&& 0xFF00FFFFFFFF = 0x220000000000 → decode w = .ok (.getG idx)) ∧
    (w &&& 0xFF00FFFFFFFF = 0x230000000000 → decode w = .ok (.getB idx)) ∧
    (w &&& 0xFF00FFFFFF00 = 0x290000000000 → decode w = .ok (.putR idx b0)) ∧
    (w &&& 0xFF00FFFFFF00 = 0x2A0000000000 → decode w = .ok (.putG idx b0)) ∧
    (w &&& 0xFF00FFFFFF00 = 0x2B0000000000 → decode w = .ok (.putB idx b0)) ∧
    (w &&& 0xFF00FFFFFF00 = 0x300000000000 → decode w = .ok (.dim idx b0)) ∧
    (w &&& 0xFF00FFFFFF00 = 0x310000000000 → decode w = .ok (.dimmer idx b0))

/-- Words written out from R70 to R72 (95_test_vectors V-D1) decode to the commands they stand for, and reserved ones do not. -/
def Obligations.SampleWordsDecode : Prop :=
  decode 0x010000000000 = .ok .beginStrip ∧ decode 0x020000000000 = .ok .size ∧ decode 0x030000000000 = .ok .commit ∧
  decode 0x100000123456 = .ok (.setRgb 0 0x12 0x34 0x56) ∧ decode 0x1C018020407F = .ok (.setSeq4 1 0x80 0x20 0x40 0x7F) ∧
  decode 0x200100000000 = .ok (.get 1) ∧ decode 0x290000000012 = .ok (.putR 0 0x12) ∧
  decode 0x310100000040 = .ok (.dimmer 1 0x40) ∧
  decode 0x000000000000 = .error (.opcode 0) ∧ decode 0x1A0000010000 = .error (.field "SET.SEQ2")

/-- A step runs the decoded command: at an accept edge (R37), with a word that decodes to `i`, the step is `exec i` at the state
whose time has advanced by one edge and whose sample of the input ports is used up; the controller's write of `IE`, if it makes
one, follows where no frame has begun (R16, R35). -/
def Obligations.StepRunsTheDecodedCommand : Prop :=
  ∀ (s : State) (i : Instr), s.input.rst = false → s.input.cmdValid = true → s.rstQ = false → s.phase = .idle →
    decode s.input.cmd = .ok i →
    step s = match exec i { s with edge := s.edge + 1, inputs := s.inputs.tail, rstQ := false } with
      | .next t => .next (if t.phase = .idle then { t with ie := s.input.ieWrite.getD t.ie } else t)
      | .fault f => .fault f
      | .refused r => .refused r

/-- A reserved word at an accept edge is refused by name, with the word (R73, U6). -/
def Obligations.ReservedWordIsRefused : Prop :=
  ∀ s : State, s.accepts = true → (∀ p ∈ maskTable, s.input.cmd &&& p.1 ≠ p.2) →
    step s = .refused (.reservedWord s.input.cmd)

/-! ## The colour encode unit (40_color) -/

/-- R104 and R105 whole: the factor, the floor, the product's width, the corner cases and the examples. -/
def Obligations.ScalingIsFloorOfProduct : Prop :=
  ∀ ch k : Byte,
    (fac k).toNat = (if k = 0 then 256 else k.toNat) ∧ 1 ≤ (fac k).toNat ∧ (fac k).toNat ≤ 256 ∧
    ch.toNat * (fac k).toNat < 2 ^ 16 ∧
    (scale1 ch k).toNat = ch.toNat * (fac k).toNat / 256 ∧
    scale1 ch 0 = ch ∧ scale1 0 k = 0 ∧ scale1 ch 1 = 0 ∧ scale1 255 255 = 254 ∧ scale1 1 255 = 0 ∧
    (scale1 ch k).toNat ≤ ch.toNat ∧ (k ≠ 0 → (scale1 ch k = ch ↔ ch = 0)) ∧ scale1 255 16 = 15

/-- The laws of R115, (a) to (i). -/
def Obligations.ColourLaws : Prop :=
  (∀ r g b : Byte, red (mkRGB r g b) = r ∧ green (mkRGB r g b) = g ∧ blue (mkRGB r g b) = b) ∧
  (∀ k r g b : Byte, mkBRGB k r g b = mkPacked (mkArg k r g b)) ∧
  (∀ r g b : Byte, mkRGB r g b = mkBRGB 0 r g b ∧ mkRGB r g b = mkSeq (.s3 r g b)) ∧
  (∀ c : Color, scale c 0 = c) ∧
  (∀ k : Byte, scale ColorName.black.color k = ColorName.black.color) ∧
  (∀ (c : Color) (k : Byte), (scale c k).g ≤ c.g ∧ (scale c k).r ≤ c.r ∧ (scale c k).b ≤ c.b) ∧
  ((∀ ch ch' k : Byte, ch ≤ ch' → scale1 ch k ≤ scale1 ch' k) ∧
    (∀ ch k k' : Byte, k ≠ 0 → k ≤ k' → scale1 ch k ≤ scale1 ch k') ∧
    (∀ ch k : Byte, scale1 ch k ≤ scale1 ch 0) ∧ ∃ ch k : Byte, ¬ scale1 ch 0 ≤ scale1 ch k) ∧
  ((¬ ∃ k : Byte, ∀ c : Color, scale (scale c 255) 255 = scale c k) ∧
    scale1 255 255 = 254 ∧ scale1 254 255 = 253 ∧ (∀ k : Byte, scale1 255 k = 253 ↔ k = 254) ∧
    scale1 128 255 = 127 ∧ scale1 127 255 = 126 ∧ scale1 128 254 = 127) ∧
  (∀ c : Color, wire c = [c.g, c.r, c.b] ∧ unwire c.g c.r c.b = c)

/-- The constructors, write accessors, serialisation and public form of a colour (R101, R103, R112, R113). -/
def Obligations.ColourConstructorsAndAccessors : Prop :=
  (∀ r g b v : Byte, (mkRGB r g b).g = g ∧ (mkRGB r g b).r = r ∧ (mkRGB r g b).b = b ∧
    withRed (mkRGB r g b) v = mkRGB v g b ∧ withGreen (mkRGB r g b) v = mkRGB r v b ∧
    withBlue (mkRGB r g b) v = mkRGB r g v) ∧
  (∀ c : Color, rgb24 c = (0 : Byte) ++ c.r ++ c.g ++ c.b ∧ mkPacked (rgb24 c) = c) ∧
  (∀ c : Color, wire c = [c.g, c.r, c.b]) ∧ (∀ c : Color, unwire c.g c.r c.b = c)

/-- R110 whole: the table of the sequence forms, their equality with the packed form of their `ARG` layout, and that a sequence of
more than four bytes does not exist. -/
def Obligations.SequenceFormsAreTrailingAligned : Prop :=
  (∀ v0 v1 v2 v3 : Byte,
    (mkSeq .s0 = mkRGB 0 0 0 ∧ mkSeq (.s1 v0) = mkRGB 0 0 v0 ∧ mkSeq (.s2 v0 v1) = mkRGB 0 v0 v1 ∧
      mkSeq (.s3 v0 v1 v2) = mkRGB v0 v1 v2 ∧ mkSeq (.s4 v0 v1 v2 v3) = mkBRGB v0 v1 v2 v3) ∧
    (mkSeq .s0 = mkPacked (mkArg 0 0 0 0) ∧ mkSeq (.s1 v0) = mkPacked (mkArg 0 0 0 v0) ∧
      mkSeq (.s2 v0 v1) = mkPacked (mkArg 0 0 v0 v1) ∧ mkSeq (.s3 v0 v1 v2) = mkPacked (mkArg 0 v0 v1 v2) ∧
      mkSeq (.s4 v0 v1 v2 v3) = mkPacked (mkArg v0 v1 v2 v3))) ∧
  (∀ vs : List Byte, ByteSeq.ofList vs = none ↔ 4 < vs.length)

/-- R114: the values of the named colours, their wire bytes and public forms. -/
def Obligations.NamedColourValues : Prop :=
  ColorName.black.color = mkRGB 0 0 0 ∧ ColorName.off.color = ColorName.black.color ∧
  ColorName.red.color = mkRGB 255 0 0 ∧ ColorName.green.color = mkRGB 0 255 0 ∧
  ColorName.blue.color = mkRGB 0 0 255 ∧ ColorName.white.color = mkRGB 255 255 255 ∧
  wire ColorName.black.color = [0x00, 0x00, 0x00] ∧ wire ColorName.red.color = [0x00, 0xFF, 0x00] ∧
  wire ColorName.green.color = [0xFF, 0x00, 0x00] ∧ wire ColorName.blue.color = [0x00, 0x00, 0xFF] ∧
  wire ColorName.white.color = [0xFF, 0xFF, 0xFF] ∧
  rgb24 ColorName.black.color = 0x00000000 ∧ rgb24 ColorName.red.color = 0x00FF0000 ∧
  rgb24 ColorName.green.color = 0x0000FF00 ∧ rgb24 ColorName.blue.color = 0x000000FF ∧
  rgb24 ColorName.white.color = 0x00FFFFFF

/-! ## The strip commands (41_strip_commands) -/

/-- BEGIN (R131): every byte of `BUF` is 0 and `DIR` is 1; no response; nothing else changes, `DOUT` among it, so that the pad goes from not
driven to driven low; and it is idempotent: a second BEGIN with nothing between leaves the same state. -/
def Obligations.BeginClearsAndConfigures : Prop :=
  Encoded 0xFFFFFFFFFFFF 0x010000000000 (fun _ => .beginStrip) ∧
  ∀ s : State, ∃ t, exec .beginStrip s = .next t ∧ (∀ a, a < 3 * s.inst.n → t.loadByte a = 0) ∧ t.dir = true ∧
    (∀ a, 3 * s.inst.n ≤ a → t.loadByte a = s.loadByte a) ∧ NoResponse s t ∧ KeepsControl { s with dir := true } t ∧
    (s.Inv → exec .beginStrip t = .next t) ∧
    (s.dir = false → s.dout = false → s.pad = .z ∧ t.pad = .driven false)

/-- SIZE (R132): responds `N`, whatever the state; nothing else changes. -/
def Obligations.SizeRespondsLedCount : Prop :=
  Encoded 0xFFFFFFFFFFFF 0x020000000000 (fun _ => .size) ∧
  ∀ s : State, RespondsOnly .size s (BitVec.ofNat 32 s.inst.n) ∧ (BitVec.ofNat 32 s.inst.n).toNat = s.inst.n

/-- SET.RGB (R133): stores green, red, blue at rising addresses, unscaled. -/
def Obligations.SetRgbStoresColour : Prop :=
  Encoded 0xFF00FF000000 0x100000000000
    (fun w => .setRgb (w.extractLsb' 32 8) (w.extractLsb' 16 8) (w.extractLsb' 8 8) (w.extractLsb' 0 8)) ∧
  ∀ (s : State) (idx r g b : Byte), idx.toNat < s.inst.n → StoresColour (.setRgb idx r g b) s idx r g b

/-- SET.BRGB (R134): stores the three channels scaled by `K`; `K = 0` stores them unscaled; `K = 255` stores each channel less one,
and 0 for 0. -/
def Obligations.SetBrgbStoresScaledColour : Prop :=
  Encoded 0xFF0000000000 0x110000000000
    (fun w => .setBrgb (w.extractLsb' 32 8) (w.extractLsb' 24 8) (w.extractLsb' 16 8) (w.extractLsb' 8 8) (w.extractLsb' 0 8)) ∧
  ∀ (s : State) (idx k r g b : Byte), idx.toNat < s.inst.n →
    StoresColour (.setBrgb idx k r g b) s idx (scale1 r k) (scale1 g k) (scale1 b k) ∧
    (k = 0 → StoresColour (.setBrgb idx k r g b) s idx r g b) ∧
    (∀ ch : Byte, scale1 ch 255 = if ch = 0 then 0 else ch - 1)

/-- SET.PACKED (R135): brightness, red, green, blue are bits 31:24, 23:16, 15:8, 7:0 of the operand; the same result as SET.BRGB with
the same `ARG`; a zero top byte means no scaling. -/
def Obligations.SetPackedStoresPackedColour : Prop :=
  Encoded 0xFF0000000000 0x120000000000 (fun w => .setPacked (w.extractLsb' 32 8) (w.extractLsb' 0 32)) ∧
  ∀ (s : State) (idx : Byte) (w : Word32), idx.toNat < s.inst.n →
    StoresColour (.setPacked idx w) s idx (scale1 (w.extractLsb' 16 8) (w.extractLsb' 24 8))
      (scale1 (w.extractLsb' 8 8) (w.extractLsb' 24 8)) (scale1 (w.extractLsb' 0 8) (w.extractLsb' 24 8)) ∧
    exec (.setPacked idx w) s =
      exec (.setBrgb idx (w.extractLsb' 24 8) (w.extractLsb' 16 8) (w.extractLsb' 8 8) (w.extractLsb' 0 8)) s ∧
    (w.extractLsb' 24 8 = 0 →
      StoresColour (.setPacked idx w) s idx (w.extractLsb' 16 8) (w.extractLsb' 8 8) (w.extractLsb' 0 8))

/-- SET.SEQ0 to SET.SEQ4 (R136 to R140): the bytes fill from blue backward; only the four-byte form scales, by its first byte, and a
zero first byte scales nothing; SET.SEQ3 equals SET.RGB and SET.SEQ4 equals SET.BRGB. -/
def Obligations.SetSeqStoresTrailingAlignedColour : Prop :=
  Encoded 0xFF00FFFFFFFF 0x180000000000 (fun w => .setSeq0 (w.extractLsb' 32 8)) ∧
  Encoded 0xFF00FFFFFF00 0x190000000000 (fun w => .setSeq1 (w.extractLsb' 32 8) (w.extractLsb' 0 8)) ∧
  Encoded 0xFF00FFFF0000 0x1A0000000000 (fun w => .setSeq2 (w.extractLsb' 32 8) (w.extractLsb' 8 8) (w.extractLsb' 0 8)) ∧
  Encoded 0xFF00FF000000 0x1B0000000000
    (fun w => .setSeq3 (w.extractLsb' 32 8) (w.extractLsb' 16 8) (w.extractLsb' 8 8) (w.extractLsb' 0 8)) ∧
  Encoded 0xFF0000000000 0x1C0000000000
    (fun w => .setSeq4 (w.extractLsb' 32 8) (w.extractLsb' 24 8) (w.extractLsb' 16 8) (w.extractLsb' 8 8) (w.extractLsb' 0 8)) ∧
  ∀ (s : State) (idx v0 v1 v2 v3 : Byte), idx.toNat < s.inst.n →
    StoresColour (.setSeq0 idx) s idx 0 0 0 ∧
    StoresColour (.setSeq1 idx v0) s idx 0 0 v0 ∧
    StoresColour (.setSeq2 idx v0 v1) s idx 0 v0 v1 ∧
    StoresColour (.setSeq3 idx v0 v1 v2) s idx v0 v1 v2 ∧
    StoresColour (.setSeq4 idx v0 v1 v2 v3) s idx (scale1 v1 v0) (scale1 v2 v0) (scale1 v3 v0) ∧
    StoresColour (.setSeq4 idx 0 v1 v2 v3) s idx v1 v2 v3 ∧
    exec (.setSeq3 idx v0 v1 v2) s = exec (.setRgb idx v0 v1 v2) s ∧
    exec (.setSeq4 idx v0 v1 v2 v3) s = exec (.setBrgb idx v0 v1 v2 v3) s

/-- GET (R141): responds `{0x00, BUF[3*IDX+1], BUF[3*IDX], BUF[3*IDX+2]}`; nothing else changes. -/
def Obligations.GetRespondsColour : Prop :=
  Encoded 0xFF00FFFFFFFF 0x200000000000 (fun w => .get (w.extractLsb' 32 8)) ∧
  ∀ (s : State) (idx : Byte), idx.toNat < s.inst.n →
    RespondsOnly (.get idx) s ((0 : Byte) ++ s.loadByte (3 * idx.toNat + 1) ++ s.loadByte (3 * idx.toNat) ++
      s.loadByte (3 * idx.toNat + 2))

/-- GET.R, GET.G, GET.B (R142 to R144): respond one channel, zero extended; nothing else changes. -/
def Obligations.GetChannelRespondsByte : Prop :=
  Encoded 0xFF00FFFFFFFF 0x210000000000 (fun w => .getR (w.extractLsb' 32 8)) ∧
  Encoded 0xFF00FFFFFFFF 0x220000000000 (fun w => .getG (w.extractLsb' 32 8)) ∧
  Encoded 0xFF00FFFFFFFF 0x230000000000 (fun w => .getB (w.extractLsb' 32 8)) ∧
  ∀ (s : State) (idx : Byte), idx.toNat < s.inst.n →
    RespondsOnly (.getR idx) s ((s.loadByte (3 * idx.toNat + 1)).zeroExtend 32) ∧
    RespondsOnly (.getG idx) s ((s.loadByte (3 * idx.toNat)).zeroExtend 32) ∧
    RespondsOnly (.getB idx) s ((s.loadByte (3 * idx.toNat + 2)).zeroExtend 32)

/-- PUT.R, PUT.G, PUT.B (R145 to R147): write one byte; every other byte, the slot's other channels among them, reads as before. -/
def Obligations.PutWritesOneChannel : Prop :=
  Encoded 0xFF00FFFFFF00 0x290000000000 (fun w => .putR (w.extractLsb' 32 8) (w.extractLsb' 0 8)) ∧
  Encoded 0xFF00FFFFFF00 0x2A0000000000 (fun w => .putG (w.extractLsb' 32 8) (w.extractLsb' 0 8)) ∧
  Encoded 0xFF00FFFFFF00 0x2B0000000000 (fun w => .putB (w.extractLsb' 32 8) (w.extractLsb' 0 8)) ∧
  ∀ (s : State) (idx v : Byte), idx.toNat < s.inst.n →
    ∀ p ∈ [(Instr.putR idx v, 3 * idx.toNat + 1), (Instr.putG idx v, 3 * idx.toNat), (Instr.putB idx v, 3 * idx.toNat + 2)],
      ∃ t, exec p.1 s = .next t ∧ t.loadByte p.2 = v ∧ BytesKeptOutside p.2 1 s t ∧ NoResponse s t ∧ KeepsControl s t

/-- DIM (R148): each channel of the slot is replaced by its scaled value; `K = 0` leaves the slot unchanged, and a channel at 0 stays
0; no channel grows. -/
def Obligations.DimScalesTheSlot : Prop :=
  Encoded 0xFF00FFFFFF00 0x300000000000 (fun w => .dim (w.extractLsb' 32 8) (w.extractLsb' 0 8)) ∧
  ∀ (s : State) (idx k : Byte), idx.toNat < s.inst.n →
    StoresColour (.dim idx k) s idx (scale1 (s.loadByte (3 * idx.toNat + 1)) k) (scale1 (s.loadByte (3 * idx.toNat)) k)
      (scale1 (s.loadByte (3 * idx.toNat + 2)) k) ∧
    (k = 0 → ∃ t, exec (.dim idx k) s = .next t ∧ BytesKept s t) ∧ scale1 0 k = 0 ∧ ∀ ch : Byte, scale1 ch k ≤ ch

/-- DIMMER (R149): responds the scaled colour and leaves the slot unchanged; `K = 0` responds with the slot's own colour. -/
def Obligations.DimmerRespondsScaledColour : Prop :=
  Encoded 0xFF00FFFFFF00 0x310000000000 (fun w => .dimmer (w.extractLsb' 32 8) (w.extractLsb' 0 8)) ∧
  ∀ (s : State) (idx k : Byte), idx.toNat < s.inst.n →
    RespondsOnly (.dimmer idx k) s ((0 : Byte) ++ scale1 (s.loadByte (3 * idx.toNat + 1)) k ++
      scale1 (s.loadByte (3 * idx.toNat)) k ++ scale1 (s.loadByte (3 * idx.toNat + 2)) k) ∧
    (k = 0 → RespondsOnly (.dimmer idx k) s ((0 : Byte) ++ s.loadByte (3 * idx.toNat + 1) ++ s.loadByte (3 * idx.toNat) ++
      s.loadByte (3 * idx.toNat + 2)))

/-- R55: a command whose index is not below `N` is refused by value, naming the command and the index. -/
def Obligations.IndexOutOfRangeIsRefused : Prop :=
  ∀ (s : State) (i : Instr) (idx : Byte), i.index? = some idx → s.inst.n ≤ idx.toNat →
    exec i s = .refused (.indexOutOfRange i.mnemonic idx)

/-- Every command completes: at every state, a command whose index (if it has one) names an LED answers a next state. -/
def Obligations.EveryWellFormedCommandCompletes : Prop :=
  ∀ (s : State) (i : Instr), WellFormed s.inst i = true → ∃ t, exec i s = .next t

/-- R33: SIZE, GET, GET.R, GET.G, GET.B and DIMMER respond; every other command leaves `RSP` unchanged and has `RSP_VALID` 0. -/
def Obligations.OnlySixCommandsRespond : Prop :=
  ∀ (s t : State) (i : Instr), exec i s = .next t →
    (match i with
      | .size | .get _ | .getR _ | .getG _ | .getB _ | .dimmer _ _ => t.rspValid = true
      | .beginStrip | .commit | .setRgb _ _ _ _ | .setBrgb _ _ _ _ _ | .setPacked _ _ | .setSeq0 _ | .setSeq1 _ _
      | .setSeq2 _ _ _ | .setSeq3 _ _ _ _ | .setSeq4 _ _ _ _ _ | .putR _ _ | .putG _ _ | .putB _ _ | .dim _ _ =>
        NoResponse s t)

/-- R130: "No command but BEGIN writes `DIR`; no command but COMMIT writes `DOUT`, `PHASE`, the sequencer registers, `SAVED_IE` or
`IE`." -/
def Obligations.OnlyBeginAndCommitWriteControl : Prop :=
  ∀ (s t : State) (i : Instr), exec i s = .next t →
    (i ≠ .beginStrip → t.dir = s.dir) ∧
    (i ≠ .commit → t.dout = s.dout ∧ t.phase = s.phase ∧ t.ptr = s.ptr ∧ t.cnt = s.cnt ∧ t.bitn = s.bitn ∧
      t.shr = s.shr ∧ t.tcnt = s.tcnt ∧ t.savedIe = s.savedIe ∧ t.ie = s.ie) ∧
    t.inst = s.inst ∧ t.edge = s.edge ∧ t.bufKey = s.bufKey ∧ t.rstQ = s.rstQ ∧ t.inputs = s.inputs

/-- R130: no command depends on `CFG`: with the other value of `DIR` it has the same outcome, but for `DIR` itself. -/
def Obligations.CommandsIgnoreConfigured : Prop :=
  ∀ (s : State) (d : Bool) (i : Instr),
    exec i { s with dir := d } = match exec i s with
      | .next t => .next { t with dir := if i = .beginStrip then true else d }
      | .fault f => .fault f
      | .refused r => .refused r

/-- R150(b), for every command that has an index: no byte outside the slot of the index changes. -/
def Obligations.CommandsKeepOtherSlots : Prop :=
  ∀ (s t : State) (i : Instr) (idx : Byte), i.index? = some idx → exec i s = .next t →
    BytesKeptOutside (3 * idx.toNat) 3 s t

/-- R150(a): a SET followed at once by GET of the same index responds with the colour the SET built, for every form of literal and
every valid index. -/
def Obligations.SetThenGetRespondsColour : Prop :=
  ∀ (s : State) (i : Instr) (idx : Byte) (c : Color), setLiteral i = some (idx, c) → idx.toNat < s.inst.n →
    ∃ t u, exec i s = .next t ∧ exec (.get idx) t = .next u ∧ Responds ((0 : Byte) ++ c.r ++ c.g ++ c.b) u

/-- R150(f): PUT.R, PUT.G, PUT.B of one slot, in any of the six orders, leave it, and every other byte, as SET.RGB leaves it; like SET.RGB
they give no response and change nothing else. -/
def Obligations.PutsInAnyOrderEqualSetRgb : Prop :=
  ∀ (s : State) (idx r g b : Byte), idx.toNat < s.inst.n → ∀ order : List Instr,
    order.Perm [.putR idx r, .putG idx g, .putB idx b] →
    ∃ t u, execAll order s = .next t ∧ exec (.setRgb idx r g b) s = .next u ∧ BytesKept u t ∧
      SlotHolds t idx r g b ∧ BytesKeptOutside (3 * idx.toNat) 3 s t ∧ NoResponse s t ∧ KeepsControl s t

/-! ## COMMIT and the sequencer (42_commit_tx, 60_exceptions) -/

/-- COMMIT at its accept edge (R171), the critical section entered (R215): every value R171 gives; `BUF`, `DIR` and `RSP` are not
written. -/
def Obligations.CommitAcceptEdge : Prop :=
  ∀ s : State, ∃ t, exec .commit s = .next t ∧ t.savedIe = s.ie ∧ t.ie = false ∧ t.ptr = 0 ∧
    t.cnt.toNat = 3 * s.inst.n ∧ t.shr = s.loadByte 0 ∧ t.bitn = 7 ∧ t.tcnt = 0 ∧ t.phase = .high ∧ t.dout = true ∧
    t.rspValid = false ∧ t.rsp = s.rsp ∧ t.buf = s.buf ∧ BytesKept s t ∧ t.dir = s.dir ∧ t.inst = s.inst ∧
    t.edge = s.edge ∧ t.bufKey = s.bufKey ∧ t.rstQ = s.rstQ ∧ t.inputs = s.inputs

/-- The sequencer step in HIGH (R174, with `TH` of R172): `TCNT` counts, and the pad falls exactly when `TCNT + 1 = TH`; a bit period
never ends in HIGH. -/
def Obligations.SequencerStepInHigh : Prop :=
  ∀ s : State, s.input.rst = false → s.phase = .high →
    let th := if s.shr.getLsbD 7 then s.inst.t1h else s.inst.t0h
    step s = .next { s with
      edge := s.edge + 1
      inputs := s.inputs.tail
      rstQ := false
      dout := if s.tcnt.toNat + 1 = th then false else s.dout
      phase := if s.tcnt.toNat + 1 = th then .low else .high
      tcnt := s.tcnt + 1
      rspValid := false } ∧
    (s.Inv → s.tcnt.toNat + 1 < s.inst.tBit)

/-- The sequencer step in LOW before the last cycle of the bit period (R175): `TCNT` counts, nothing else changes, and `DOUT` is 0 (by the
invariant, R42(b)). -/
def Obligations.SequencerStepInLow : Prop :=
  ∀ s : State, s.input.rst = false → s.phase = .low → s.tcnt.toNat + 1 < s.inst.tBit →
    step s = .next { s with
      edge := s.edge + 1
      inputs := s.inputs.tail
      rstQ := false
      tcnt := s.tcnt + 1
      rspValid := false } ∧
    (s.Inv → s.dout = false)

/-- The sequencer step at the end of a bit period when more bits follow (R176): the next bit of the byte, or the first bit of the byte
at `PTR + 1`, rises at this very edge. The second part is under the invariant, which rules out states no run reaches. -/
def Obligations.SequencerStepToNextBit : Prop :=
  ∀ s : State, s.input.rst = false → s.phase = .low → s.tcnt.toNat + 1 = s.inst.tBit →
    (s.bitn ≠ 0 →
      step s = .next { s with
        edge := s.edge + 1
        inputs := s.inputs.tail
        rstQ := false
        shr := (s.shr.extractLsb' 0 7 ++ (0 : BitVec 1) : BitVec 8)
        bitn := s.bitn - 1
        tcnt := 0
        phase := .high
        dout := true
        rspValid := false }) ∧
    (s.bitn = 0 → s.cnt ≠ 1 → s.Inv → s.ptr.toNat + 1 < 3 * s.inst.n ∧ 1 < s.cnt.toNat ∧
      step s = .next { s with
        edge := s.edge + 1
        inputs := s.inputs.tail
        rstQ := false
        shr := s.loadByte (s.ptr.toNat + 1)
        ptr := s.ptr + 1
        cnt := s.cnt - 1
        bitn := 7
        tcnt := 0
        phase := .high
        dout := true
        rspValid := false })

/-- The sequencer step at the end of the last bit period (R177): idle again, `IE` restored (R217), the other registers kept. -/
def Obligations.SequencerStepAtFrameEnd : Prop :=
  ∀ s : State, s.input.rst = false → s.phase = .low → s.tcnt.toNat + 1 = s.inst.tBit → s.bitn = 0 → s.cnt = 1 →
    step s = .next { s with
      edge := s.edge + 1
      inputs := s.inputs.tail
      rstQ := false
      phase := .idle
      ie := s.savedIe
      rspValid := false } ∧
    (s.Inv → s.dout = false)

/-- While `BUSY` the command port is ignored (R37), and the controller writes nothing (R219): with no reset, the step does not depend
on the other inputs of the edge. -/
def Obligations.FrameIgnoresCommandPort : Prop :=
  ∀ (s : State) (i j : EdgeInput) (rest : List EdgeInput), s.busy = true → i.rst = false → j.rst = false →
    step { s with inputs := i :: rest } = step { s with inputs := j :: rest }

/-- The waveform of R180, with R183's pad: let the next edge be the accept edge `e0` of a COMMIT, and let no reset be asserted up to
the end of the frame. Then in every cycle `e0 + c` of the frame `DOUT` is as the closed form says, `PHASE` is not IDLE, `IE` is 0 and
`BUF` is what it was; and in cycle `e0 + 24*N*TBIT` `DOUT` is 0, `PHASE` is IDLE, `IE` is what it was before the accept edge, and the
port is ready (R181: the frame takes exactly `24*N*TBIT` cycles). -/
def Obligations.CommitWaveformClosedForm : Prop :=
  ∀ s : State, s.accepts = true → decode s.input.cmd = .ok .commit →
    s.noResetFor (24 * s.inst.n * s.inst.tBit + 1) = true →
    (∀ c, c < 24 * s.inst.n * s.inst.tBit → ∃ t, runSteps (c + 1) s = .next t ∧
      t.dout = decide (c % s.inst.tBit < if s.frameBit (c / s.inst.tBit) then s.inst.t1h else s.inst.t0h) ∧
      t.phase ≠ .idle ∧ t.ie = false ∧ t.cmdReady = false ∧ BytesKept s t ∧ t.dir = s.dir ∧
      t.pad = (if s.dir then .driven t.dout else .z)) ∧
    (∃ t, runSteps (24 * s.inst.n * s.inst.tBit + 1) s = .next t ∧ t.dout = false ∧ t.phase = .idle ∧ t.ie = s.ie ∧
      t.cmdReady = true ∧ BytesKept s t ∧ t.dir = s.dir)

/-- The frame as a pulse list (R185): from the accept edge on, the trace of `DOUT` is the `24*N` pulses, each high for `TH` cycles and
then low to the end of its period, one starting where the one before ends, bytes in address order, bit 7 first (R83). -/
def Obligations.CommitTraceIsThePulseList : Prop :=
  ∀ s : State, s.accepts = true → decode s.input.cmd = .ok .commit →
    s.noResetFor (24 * s.inst.n * s.inst.tBit + 1) = true →
    (traceOf State.dout (24 * s.inst.n * s.inst.tBit + 1) s).tail =
      (List.range (24 * s.inst.n)).flatMap fun q =>
        let th := if (s.loadByte (q / 8)).getLsbD (7 - q % 8) then s.inst.t1h else s.inst.t0h
        List.replicate th true ++ List.replicate (s.inst.tBit - th) false

/-- R218: over any run of edges with no reset and no write of `IE` by the controller, from an idle state to an idle state, whatever
commands and however many COMMITs it holds, `IE` at the end is what it was at the start. -/
def Obligations.CommitsRestoreInterruptEnable : Prop :=
  ∀ (k : Nat) (s t : State), s.noResetFor k = true → ((s.inputs.take k).all fun i => i.ieWrite == none) = true →
    s.phase = .idle → t.phase = .idle → runSteps k s = .next t → t.ie = s.ie

/-- The ports `ie_clr` and `ie_set` (R36). When they are asserted: `ie_clr` exactly in the cycle before the accept edge of a COMMIT
(R215), which is exactly the cycle before an edge that starts a frame; `ie_set` exactly in the cycle before the last edge of a frame with
`SAVED_IE = 1` (R217), the last edge being one with no reset that takes a frame to idle. And what they ask for happens to `IE` at the next
edge: cleared and saved, or set; at the last edge of a frame without `ie_set` it is 0, with neither port asserted. -/
def Obligations.InterruptEnableFollowsPorts : Prop :=
  (∀ s : State,
    (s.ieClr = true ↔ s.accepts = true ∧ decode s.input.cmd = .ok .commit) ∧
    (s.ieClr = true ↔ s.phase = .idle ∧ ∃ t, step s = .next t ∧ t.phase ≠ .idle) ∧
    (s.frameEnds = true ↔ s.phase ≠ .idle ∧ s.input.rst = false ∧ ∃ t, step s = .next t ∧ t.phase = .idle) ∧
    (s.ieSet = true ↔ s.savedIe = true ∧ s.phase ≠ .idle ∧ s.input.rst = false ∧
      ∃ t, step s = .next t ∧ t.phase = .idle)) ∧
  (∀ s t : State, step s = .next t →
    (s.ieClr = true → t.ie = false ∧ t.savedIe = s.ie ∧ t.phase = .high) ∧
    (s.ieSet = true → t.ie = true ∧ t.phase = .idle) ∧
    (s.frameEnds = true → s.ieSet = false → s.ieClr = false ∧ t.ie = false ∧ t.phase = .idle))

/-! ## Reset, idle edges, the pad (10_state, 70_reset_and_hazards) -/

/-- A reset edge (R230; its values R41): from any state the reset state's given values, whatever the command port holds; no command is accepted, no
sequencer step taken. Two clauses have the model's form: nothing is listed in `BUF`, which is how it says that the contents are unspecified
again (log 4); from an idle state `IE` keeps its value but for the controller's own write at this edge (R16, R35; log 8, log 11; where the
reset cuts a frame it is unspecified, R233). `cmd_ready` is 0 in the cycle after a reset edge and 1
from the cycle after the first edge without one; after every edge it is 1 exactly when the edge was no reset edge and `PHASE` is IDLE. -/
def Obligations.ResetEdge : Prop :=
  (∀ s : State, s.input.rst = true → ∃ t, step s = .next t ∧ t.dir = false ∧ t.dout = false ∧ t.phase = .idle ∧
    t.rspValid = false ∧ t.cmdReady = false ∧ t.buf = [] ∧ t.inst = s.inst ∧ t.edge = s.edge + 1 ∧
    t.inputs = s.inputs.tail ∧
    (s.phase = .idle → t.ie = s.input.ieWrite.getD s.ie) ∧
    (t.input.rst = false → ∃ u, step t = .next u ∧ u.cmdReady = true ∧ u.phase = .idle ∧ u.rspValid = false)) ∧
  (∀ s t : State, step s = .next t → (t.cmdReady = true ↔ s.input.rst = false ∧ t.phase = .idle))

/-- The values R41 gives for reset hold at `State.reset`; nothing is listed in `BUF`. -/
def Obligations.ResetStateValues : Prop :=
  State.reset.dir = false ∧ State.reset.dout = false ∧ State.reset.phase = .idle ∧ State.reset.rspValid = false ∧
  State.reset.cmdReady = false ∧ State.reset.pad = .z ∧ State.reset.buf = []

/-- An edge with no reset, no frame and no accepted command (R221(4), R33): only `RSP_VALID` is cleared, and `IE` takes the
controller's write if there is one (R16). That a command presented in the cycle after a reset edge is not accepted rests on R37 and R230
against R221(3) read literally: the model's reading, log 9. -/
def Obligations.QuietEdgeClearsResponseValid : Prop :=
  ∀ s : State, s.input.rst = false → s.phase = .idle → (s.input.cmdValid = false ∨ s.rstQ = true) →
    step s = .next { s with
      edge := s.edge + 1
      inputs := s.inputs.tail
      rstQ := false
      rspValid := false
      ie := s.input.ieWrite.getD s.ie }

/-- `PAD` and the line (R26): `DOUT` when `DIR = 1`, not driven when `DIR = 0`; the line has the driven level. -/
def Obligations.PadIsDoutWhenConfigured : Prop :=
  ∀ s : State, (s.dir = true → s.pad = .driven s.dout ∧ s.line = s.dout) ∧ (s.dir = false → s.pad = .z) ∧
    s.outPorts.padOut = s.dout ∧ s.outPorts.padOe = s.dir ∧ s.outPorts.rsp = s.rsp ∧ s.outPorts.rspValid = s.rspValid

/-- The parameters never change, and time advances by one edge a step (R7, R11, R38). -/
def Obligations.ParametersNeverChange : Prop :=
  ∀ s t : State, step s = .next t →
    t.inst = s.inst ∧ t.edge = s.edge + 1 ∧ t.inputs = s.inputs.tail ∧ t.rstQ = s.input.rst

/-- R42(d): `BUF` does not change while `BUSY`: with no reset, a step of a frame leaves every byte as it was. -/
def Obligations.BufferFixedDuringFrame : Prop :=
  ∀ s t : State, s.busy = true → s.input.rst = false → step s = .next t → t.buf = s.buf ∧ BytesKept s t

/-- R42(e): `DIR`, once 1, stays 1 until reset. -/
def Obligations.DirectionStaysSet : Prop :=
  ∀ s t : State, s.dir = true → s.input.rst = false → step s = .next t → t.dir = true

/-- R236: after BEGIN, and until reset, `DIR = 1`, every byte of `BUF` has a defined value, and the line is low whenever no frame is in
progress. BEGIN establishes it; every step without a reset keeps it. -/
def Obligations.ConfiguredUntilReset : Prop :=
  (∀ s t : State, exec .beginStrip s = .next t → t.dir = true ∧ t.bufDefined = true ∧
    (s.Inv → t.phase = .idle → t.line = false)) ∧
  (∀ s t : State, s.Inv → s.dir = true → s.bufDefined = true → s.input.rst = false → step s = .next t →
    t.dir = true ∧ t.bufDefined = true ∧ (t.phase = .idle → t.line = false))

/-! ## Invariants and safety -/

/-- The invariant R42, with the canonical form of the buffer, is kept by every step. -/
def Obligations.EveryStepKeepsTheInvariant : Prop := ∀ s t : State, s.Inv → step s = .next t → t.Inv

/-- The invariant holds at `State.reset`. -/
def Obligations.InvariantHoldsAtReset : Prop := State.reset.Inv

/-- What the invariant says: R42(a), (b), (c), and that an unlisted byte is the only form an unwritten byte has. -/
def Obligations.InvariantGivesTheSpecsFacts : Prop :=
  ∀ s : State, s.Inv → (s.phase = .idle → s.dout = false) ∧ (s.dout = true ↔ s.phase = .high) ∧
    (s.busy = true → s.ptr.toNat + s.cnt.toNat = 3 * s.inst.n ∧ 1 ≤ s.cnt.toNat ∧ s.cnt.toNat ≤ 3 * s.inst.n ∧
      s.tcnt.toNat < s.inst.tBit ∧ s.ie = false) ∧
    (∀ c ∈ s.buf, c.1 < 3 * s.inst.n) ∧ (s.buf.map Prod.fst).Pairwise (· < ·)

/-- R210, R57: under the invariant no step faults, and a step is refused only at an accept edge, for a reserved word (R73) or for an
index that names no LED (R55). -/
def Obligations.StepsNeverFaultUnderTheInvariant : Prop :=
  ∀ s : State, s.Inv → (∀ f, step s ≠ .fault f) ∧
    (∀ r, step s = .refused r → s.accepts = true ∧
      ((∀ p ∈ maskTable, s.input.cmd &&& p.1 ≠ p.2) ∨
        ∃ i idx, decode s.input.cmd = .ok i ∧ i.index? = some idx ∧ s.inst.n ≤ idx.toNat))

/-- R40, R41: `SAVED_IE`, `PTR`, `CNT`, `BITN`, `SHR` and `TCNT` cannot be read by any command, and are written before they are read:
from an idle state a step does not depend on them, and what it leaves differs only in them or, at the start of a frame or at a reset,
in nothing. -/
def Obligations.HiddenRegistersAreUnobservable : Prop :=
  ∀ (s : State) (ptr cnt shr tcnt : Byte) (bitn : BitVec 3) (savedIe : Bool), s.phase = .idle →
    let hide (u : State) : State :=
      { u with ptr := ptr, cnt := cnt, shr := shr, tcnt := tcnt, bitn := bitn, savedIe := savedIe }
    (∀ r, step s = .refused r → step (hide s) = .refused r) ∧ (∀ f, step s = .fault f → step (hide s) = .fault f) ∧
    (∀ t, step s = .next t → step (hide s) = .next t ∨ (t.phase = .idle ∧ step (hide s) = .next (hide t)))

/-! ## Parameters, time, the assembler -/

/-- R7, R237, U9: an instance is built exactly when the parameters are legal and the clock is one of the two supported rates, and it has
the parameters asked for. -/
def Obligations.BuildAcceptsExactlyLegalParameters : Prop :=
  ∀ n pin hz fSlow fFast tBit t1h t0h : Nat,
    ((∃ p, Config.Params.build n pin hz fSlow fFast tBit t1h t0h = .ok p) ↔
      1 ≤ n ∧ 3 * n < 256 ∧ 1 ≤ t0h ∧ t0h < t1h ∧ t1h < tBit ∧ tBit ≤ 255 ∧ (hz = fSlow ∨ hz = fFast)) ∧
    (∀ p, Config.Params.build n pin hz fSlow fFast tBit t1h t0h = .ok p →
      p.n = n ∧ p.pin = pin ∧ p.fClk = hz ∧ p.tBit = tBit ∧ p.t1h = t1h ∧ p.t0h = t0h)

/-- R8, R189, R250: with the default parameters the long pulse, the short pulse and the period are 0.875, 0.375 and 1.25 microseconds at
both clock rates, and a frame takes 30 microseconds for each LED. -/
def Obligations.DefaultTimingInSeconds : Prop :=
  ∀ (n : Nat) (h : 1 ≤ n) (h' : 3 * n < 256),
    ∀ p ∈ [Config.Params.slow n h h', Config.Params.fast n h h'],
      p.seconds p.t1h = 875 / 1000000000 ∧ p.seconds p.t0h = 375 / 1000000000 ∧
      p.seconds p.tBit = 1250 / 1000000000 ∧ p.seconds p.frameCycles = 30 * (n : Rat) / 1000000

/-- R85 and R86: a line without its index operand means the line with index 0, and a named colour is its SET.RGB. -/
def Obligations.AssemblerDefaultsAndNames : Prop :=
  (∀ r g b : Nat, Asm.assemble .setRgb [.num r, .num g, .num b] = Asm.assemble .setRgb [.num 0, .num r, .num g, .num b]) ∧
  (∀ k r g b : Nat, Asm.assemble .setBrgb [.num k, .num r, .num g, .num b] =
    Asm.assemble .setBrgb [.num 0, .num k, .num r, .num g, .num b]) ∧
  (∀ w : Nat, Asm.assemble .setPacked [.num w] = Asm.assemble .setPacked [.num 0, .num w]) ∧
  (∀ vs : List Nat, Asm.assemble .setSeq [.seq vs] = Asm.assemble .setSeq [.num 0, .seq vs]) ∧
  (∀ cs : List Char, Asm.assemble .setName [.name cs] = Asm.assemble .setName [.num 0, .name cs]) ∧
  (∀ op ∈ [Asm.Op.get, .getR, .getG, .getB], Asm.assemble op [] = Asm.assemble op [.num 0]) ∧
  (∀ op ∈ [Asm.Op.putR, .putG, .putB, .dim, .dimmer], ∀ v : Nat,
    Asm.assemble op [.num v] = Asm.assemble op [.num 0, .num v]) ∧
  (∀ p ∈ Asm.colorNames, ∀ i : Nat, Asm.assemble .setName [.num i, .name p.1] = Asm.assemble .setRgb
    [.num i, .num (red p.2.color).toNat, .num (green p.2.color).toNat, .num (blue p.2.color).toNat])

/-! ## Runs -/

/-- R15: a run that has still to present one word, a COMMIT, after `gap` idle edges, ends at the end of its frame and not before: from an
idle, ready block it takes `gap` idle edges, the accept edge and `24*N*TBIT` edges more, and in fewer it has no end state. -/
def Obligations.RunEndsWithItsFrame : Prop :=
  ∀ (s : State) (gap : Nat), s.phase = .idle → s.rstQ = false →
    (∃ t, runWords (gap + 1 + 24 * s.inst.n * s.inst.tBit) [⟨gap, 0x030000000000⟩] s = .ok (some t) ∧
      t.edge = s.edge + gap + 1 + 24 * s.inst.n * s.inst.tBit ∧ t.phase = .idle ∧ t.dout = false ∧ BytesKept s t ∧
      t.dir = s.dir) ∧
    (∀ k, k < gap + 1 + 24 * s.inst.n * s.inst.tBit → runWords k [⟨gap, 0x030000000000⟩] s = .ok none)
end

