-- ==== Sys2Proof/Laws/Decode.lean ====
section
/-! SUPPORT. The fields of a command word (R70) and of ARG (R9): what a word built from fields reads as, and that a word is its
fields. -/

namespace Sys2Proof

@[simp] theorem opOf_mkWord (op idx : Byte) (arg : Word32) : opOf (mkWord op idx arg) = op := by
  unfold opOf mkWord
  rw [BitVec.extractLsb'_append_eq_of_le (by omega), BitVec.extractLsb'_append_eq_of_le (by omega)]
  simp

@[simp] theorem idxOf_mkWord (op idx : Byte) (arg : Word32) : idxOf (mkWord op idx arg) = idx := by
  unfold idxOf mkWord
  rw [BitVec.extractLsb'_append_eq_of_le (by omega), BitVec.extractLsb'_append_eq_of_add_le (by omega)]
  simp

@[simp] theorem argOf_mkWord (op idx : Byte) (arg : Word32) : argOf (mkWord op idx arg) = arg := by
  unfold argOf mkWord
  rw [BitVec.extractLsb'_append_eq_of_add_le (by omega)]
  simp

@[simp] theorem byte3_mkArg (b3 b2 b1 b0 : Byte) : byte3 (mkArg b3 b2 b1 b0) = b3 := by
  unfold byte3 mkArg
  rw [BitVec.extractLsb'_append_eq_of_le (by omega), BitVec.extractLsb'_append_eq_of_le (by omega),
    BitVec.extractLsb'_append_eq_of_le (by omega)]
  simp

@[simp] theorem byte2_mkArg (b3 b2 b1 b0 : Byte) : byte2 (mkArg b3 b2 b1 b0) = b2 := by
  unfold byte2 mkArg
  rw [BitVec.extractLsb'_append_eq_of_le (by omega), BitVec.extractLsb'_append_eq_of_le (by omega),
    BitVec.extractLsb'_append_eq_of_add_le (by omega)]
  simp

@[simp] theorem byte1_mkArg (b3 b2 b1 b0 : Byte) : byte1 (mkArg b3 b2 b1 b0) = b1 := by
  unfold byte1 mkArg
  rw [BitVec.extractLsb'_append_eq_of_le (by omega), BitVec.extractLsb'_append_eq_of_add_le (by omega)]
  simp

@[simp] theorem byte0_mkArg (b3 b2 b1 b0 : Byte) : byte0 (mkArg b3 b2 b1 b0) = b0 := by
  unfold byte0 mkArg
  rw [BitVec.extractLsb'_append_eq_of_add_le (by omega)]
  simp

/-- A word is its three fields. -/
theorem mkWord_fields (w : CmdWord) : mkWord (opOf w) (idxOf w) (argOf w) = w := by
  unfold mkWord opOf idxOf argOf
  rw [BitVec.extractLsb'_append_extractLsb'_eq_extractLsb' (by omega),
    BitVec.extractLsb'_append_extractLsb'_eq_extractLsb' (by omega)]
  exact BitVec.extractLsb'_eq_self

/-- A 32-bit word is its four bytes. -/
theorem mkArg_bytes (v : Word32) : mkArg (byte3 v) (byte2 v) (byte1 v) (byte0 v) = v := by
  unfold mkArg byte3 byte2 byte1 byte0
  rw [BitVec.extractLsb'_append_extractLsb'_eq_extractLsb' (by omega),
    BitVec.extractLsb'_append_extractLsb'_eq_extractLsb' (by omega),
    BitVec.extractLsb'_append_extractLsb'_eq_extractLsb' (by omega)]
  exact BitVec.extractLsb'_eq_self

/-- Words are equal when their fields are. -/
theorem mkWord_inj {op op' idx idx' : Byte} {arg arg' : Word32} :
    mkWord op idx arg = mkWord op' idx' arg' ↔ op = op' ∧ idx = idx' ∧ arg = arg' := by
  constructor
  · intro h
    exact ⟨by simpa using congrArg opOf h, by simpa using congrArg idxOf h, by simpa using congrArg argOf h⟩
  · rintro ⟨rfl, rfl, rfl⟩; rfl

/-- 32-bit words are equal when their bytes are. -/
theorem mkArg_inj {a3 a2 a1 a0 b3 b2 b1 b0 : Byte} :
    mkArg a3 a2 a1 a0 = mkArg b3 b2 b1 b0 ↔ a3 = b3 ∧ a2 = b2 ∧ a1 = b1 ∧ a0 = b0 := by
  constructor
  · intro h
    exact ⟨by simpa using congrArg byte3 h, by simpa using congrArg byte2 h, by simpa using congrArg byte1 h,
      by simpa using congrArg byte0 h⟩
  · rintro ⟨rfl, rfl, rfl, rfl⟩; rfl

/-- The conjunction of two words, field by field. -/
theorem mkWord_and (op op' idx idx' : Byte) (arg arg' : Word32) :
    mkWord op idx arg &&& mkWord op' idx' arg' = mkWord (op &&& op') (idx &&& idx') (arg &&& arg') := by
  unfold mkWord
  rw [BitVec.and_append, BitVec.and_append]

/-- The conjunction of two 32-bit words, byte by byte. -/
theorem mkArg_and (a3 a2 a1 a0 b3 b2 b1 b0 : Byte) :
    mkArg a3 a2 a1 a0 &&& mkArg b3 b2 b1 b0 = mkArg (a3 &&& b3) (a2 &&& b2) (a1 &&& b1) (a0 &&& b0) := by
  unfold mkArg
  rw [BitVec.and_append, BitVec.and_append, BitVec.and_append]

/-- The masks of the opcode table (R72), field by field. -/
theorem mask_strip : (0xFFFFFFFFFFFF : CmdWord) = mkWord 0xFF 0xFF (mkArg 0xFF 0xFF 0xFF 0xFF) := by decide

theorem mask_free : (0xFF0000000000 : CmdWord) = mkWord 0xFF 0 (mkArg 0 0 0 0) := by decide

theorem mask_low3 : (0xFF00FF000000 : CmdWord) = mkWord 0xFF 0 (mkArg 0xFF 0 0 0) := by decide

theorem mask_low2 : (0xFF00FFFF0000 : CmdWord) = mkWord 0xFF 0 (mkArg 0xFF 0xFF 0 0) := by decide

theorem mask_low1 : (0xFF00FFFFFF00 : CmdWord) = mkWord 0xFF 0 (mkArg 0xFF 0xFF 0xFF 0) := by decide

theorem mask_low0 : (0xFF00FFFFFFFF : CmdWord) = mkWord 0xFF 0 (mkArg 0xFF 0xFF 0xFF 0xFF) := by decide

/-- Conjunction with 0xFF keeps a byte, with 0 clears it. -/
theorem byte_and_ff (b : Byte) : b &&& 0xFF = b := by
  simpa using BitVec.and_allOnes (x := b)

theorem byte_and_zero (b : Byte) : b &&& 0 = 0 := BitVec.and_zero

/-- The zero word, byte by byte. -/
theorem mkArg_zero : mkArg 0 0 0 0 = (0 : Word32) := by decide

/-! ### The bytes of ARG, as bits of the word -/

theorem extract_argOf (w : CmdWord) (k : Nat) (h : k + 8 ≤ 32) : (argOf w).extractLsb' k 8 = w.extractLsb' k 8 := by
  apply BitVec.eq_of_getLsbD_eq
  intro i hi
  simp [argOf, show k + i < 32 by omega]

theorem byte3_argOf (w : CmdWord) : byte3 (argOf w) = w.extractLsb' 24 8 := extract_argOf w 24 (by omega)

theorem byte2_argOf (w : CmdWord) : byte2 (argOf w) = w.extractLsb' 16 8 := extract_argOf w 16 (by omega)

theorem byte1_argOf (w : CmdWord) : byte1 (argOf w) = w.extractLsb' 8 8 := extract_argOf w 8 (by omega)

theorem byte0_argOf (w : CmdWord) : byte0 (argOf w) = w.extractLsb' 0 8 := extract_argOf w 0 (by omega)

/-- Every word is built from an OP byte, an index and four bytes. -/
theorem word_cases (w : CmdWord) : ∃ op idx b3 b2 b1 b0, w = mkWord op idx (mkArg b3 b2 b1 b0) :=
  ⟨_, _, _, _, _, _, by rw [mkArg_bytes, mkWord_fields]⟩

/-- What a word's conjunction with a mask says of its fields. -/
theorem fields_of_and (w m p : CmdWord) (h : w &&& m = p) :
    opOf w &&& opOf m = opOf p ∧ idxOf w &&& idxOf m = idxOf p ∧
    byte3 (argOf w) &&& byte3 (argOf m) = byte3 (argOf p) ∧ byte2 (argOf w) &&& byte2 (argOf m) = byte2 (argOf p) ∧
    byte1 (argOf w) &&& byte1 (argOf m) = byte1 (argOf p) ∧ byte0 (argOf w) &&& byte0 (argOf m) = byte0 (argOf p) := by
  subst h
  simp only [opOf, idxOf, argOf, byte3, byte2, byte1, byte0, BitVec.extractLsb'_and]
  trivial

/-! ### The table and the decoder (R74) -/

/-- What holds of each of the twenty rows holds of every row of the table. -/
theorem mem_opcodeTable (P : Row → Prop) (h : ∀ k : Fin 20, P opcodeTable[k]) : ∀ r ∈ opcodeTable, P r := by
  intro r hr
  obtain ⟨k, hk, rfl⟩ := List.getElem_of_mem hr
  exact h ⟨k, hk⟩

/-- A row is the one found by its own OP byte. -/
theorem find_row : ∀ r ∈ opcodeTable, opcodeTable.find? (fun r' => opOf r'.pat == opOf r.pat) = some r := by
  apply mem_opcodeTable
  intro k
  fin_cases k <;> rfl

/-- The decoder at a word with a row's OP byte. -/
theorem decode_of_row {w : CmdWord} {r : Row} (hr : r ∈ opcodeTable) (ho : opOf r.pat = opOf w) :
    decode w = if r.accepts w then .ok (r.build w) else .error (.field r.mnemonic) := by
  have h := find_row r hr
  rw [ho] at h
  rw [decode, h]

theorem opOf_and (w m : CmdWord) : opOf (w &&& m) = opOf w &&& opOf m := by
  unfold opOf
  exact BitVec.extractLsb'_and

/-- A word that matches a row has the row's OP byte. -/
theorem op_of_accepts {w : CmdWord} {r : Row} (hr : r ∈ opcodeTable) (h : r.accepts w = true) :
    opOf r.pat = opOf w := by
  have hm : ∀ r ∈ opcodeTable, opOf r.mask = 0xFF := mem_opcodeTable _ (by decide)
  have h' : w &&& r.mask = r.pat := by simpa [Row.accepts] using h
  rw [← h', opOf_and, hm r hr, byte_and_ff]

/-- A word that matches a row decodes by that row. -/
theorem decode_of_accepts {w : CmdWord} {r : Row} (hr : r ∈ opcodeTable) (h : r.accepts w = true) :
    decode w = .ok (r.build w) := by
  rw [decode_of_row hr (op_of_accepts hr h), if_pos h]

/-- A word that decodes matches a row. -/
theorem row_of_decode {w : CmdWord} {i : Instr} (h : decode w = .ok i) :
    ∃ r ∈ opcodeTable, r.accepts w = true ∧ i = r.build w := by
  unfold decode at h
  split at h
  · simp at h
  · rename_i r hf
    split at h
    · rename_i ha
      exact ⟨r, List.mem_of_find?_eq_some hf, ha, by simpa using h.symm⟩
    · simp at h

end Sys2Proof
end

