-- ==== Sys2Proof/Laws/Color.lean ====
section
/-! SUPPORT. The laws of brightness scaling as arithmetic on numbers (R104, R105), and the packed form (R109). -/

namespace Sys2Proof.Machine

theorem fac_toNat (k : Byte) : (fac k).toNat = if k = 0 then 256 else k.toNat := by
  have := k.isLt
  unfold fac
  split
  · rfl
  · simp only [BitVec.toNat_setWidth]
    omega

theorem fac_le (k : Byte) : (fac k).toNat ≤ 256 := by
  have := k.isLt
  rw [fac_toNat]
  split <;> omega

theorem fac_pos (k : Byte) : 1 ≤ (fac k).toNat := by
  rw [fac_toNat]
  split
  · omega
  · rename_i h
    have : k.toNat ≠ 0 := fun e => h (BitVec.eq_of_toNat_eq (by simpa using e))
    omega

/-- A scaled channel is the floor of the product over 256 (R105). -/
theorem scale1_toNat (ch k : Byte) : (scale1 ch k).toNat = ch.toNat * (fac k).toNat / 256 := by
  have hc := ch.isLt
  have hm : ch.toNat * (fac k).toNat ≤ 255 * 256 := Nat.mul_le_mul (by omega) (fac_le k)
  unfold scale1
  simp [BitVec.extractLsb'_toNat, BitVec.toNat_mul]
  rw [Nat.mod_eq_of_lt (show ch.toNat * (fac k).toNat < 65536 by omega), Nat.shiftRight_eq_div_pow]
  omega

theorem scale1_zero (ch : Byte) : scale1 ch 0 = ch := by
  apply BitVec.eq_of_toNat_eq
  rw [scale1_toNat, fac_toNat]
  simp

theorem scale1_le (ch k : Byte) : (scale1 ch k).toNat ≤ ch.toNat := by
  rw [scale1_toNat]
  have : ch.toNat * (fac k).toNat ≤ ch.toNat * 256 := Nat.mul_le_mul_left _ (fac_le k)
  omega

theorem scale_zero (c : Color) : scale c 0 = c := by
  rw [scale, scale1_zero, scale1_zero, scale1_zero]

theorem mkPacked_mkArg (k r g b : Byte) : mkPacked (mkArg k r g b) = mkBRGB k r g b := by
  simp [mkPacked]

end Sys2Proof.Machine
end

