-- ==== Sys2Proof/Laws/Memory.lean ====
section
/-! SUPPORT. The laws of the strip buffer: a read after a write, and that every memory operation keeps the canonical form. -/

namespace Sys2Proof.Machine.Memory

@[simp] theorem read_nil (a : Nat) : Memory.read [] a = none := rfl

@[simp] theorem writeBytes_nil (m : Memory) (a : Nat) : m.writeBytes a [] = m := rfl

theorem writeBytes_cons (m : Memory) (a : Nat) (v : Byte) (vs : List Byte) :
    m.writeBytes a (v :: vs) = (m.write a v).writeBytes (a + 1) vs := rfl

/-- A read of a written address gives the byte written. -/
@[simp] theorem read_write_same (m : Memory) (a : Nat) (v : Byte) : (m.write a v).read a = some v := by
  induction m with
  | nil => simp [Memory.write, Memory.read]
  | cons c m ih =>
    obtain ⟨k, u⟩ := c
    unfold Memory.write
    split
    · simp [Memory.read]
    · split
      · simp [Memory.read]
      · have hk : k ≠ a := by omega
        simp [Memory.read, hk, ih]

/-- A write leaves every other address alone. -/
theorem read_write_other (m : Memory) {a x : Nat} (v : Byte) (h : x ≠ a) : (m.write a v).read x = m.read x := by
  induction m with
  | nil => simp [Memory.write, Memory.read, h.symm]
  | cons c m ih =>
    obtain ⟨k, u⟩ := c
    unfold Memory.write
    split
    · simp [Memory.read, h.symm]
    · split
      · rename_i hk
        subst hk
        simp [Memory.read, h.symm]
      · simp [Memory.read, ih]

/-- Bytes written from `a` up leave every address outside them alone. -/
theorem read_writeBytes_outside (m : Memory) (a : Nat) (vs : List Byte) {x : Nat} (h : x < a ∨ a + vs.length ≤ x) :
    (m.writeBytes a vs).read x = m.read x := by
  induction vs generalizing m a with
  | nil => rfl
  | cons v vs ih =>
    simp only [List.length_cons] at h
    rw [writeBytes_cons, ih _ _ (by omega), read_write_other _ _ (by omega)]

/-- Bytes written from `a` up read back. -/
theorem read_writeBytes_inside (m : Memory) (a : Nat) (vs : List Byte) {i : Nat} (h : i < vs.length) :
    (m.writeBytes a vs).read (a + i) = some vs[i] := by
  induction vs generalizing m a i with
  | nil => simp at h
  | cons v vs ih =>
    rw [writeBytes_cons]
    cases i with
    | zero => rw [Nat.add_zero, read_writeBytes_outside _ _ _ (by omega)]; simp
    | succ i =>
      have h' : i < vs.length := by simpa using h
      have := ih (m.write a v) (a + 1) h'
      rw [show a + (i + 1) = a + 1 + i by omega, this]
      simp

/-- The canonical form, said of the first cell and the rest. -/
theorem wf_cons (a : Nat) (v : Byte) (m : Memory) :
    Memory.wf ((a, v) :: m) = true ↔ (∀ c ∈ m.head?, a < c.1) ∧ Memory.wf m = true := by
  cases m with
  | nil => simp [Memory.wf]
  | cons c m => obtain ⟨b, u⟩ := c; simp [Memory.wf]

/-- The first address of a written memory is the written one or the first before. -/
theorem head_write (m : Memory) (a : Nat) (v : Byte) :
    ∀ c ∈ (m.write a v).head?, c.1 = a ∨ ∃ d ∈ m.head?, c.1 = d.1 := by
  cases m with
  | nil => simp [Memory.write]
  | cons d m =>
    obtain ⟨k, u⟩ := d
    unfold Memory.write
    split
    · simp
    · split <;> simp

/-- A write keeps the canonical form. -/
theorem write_wf (m : Memory) (a : Nat) (v : Byte) (h : m.wf = true) : (m.write a v).wf = true := by
  induction m with
  | nil => rfl
  | cons c m ih =>
    obtain ⟨k, u⟩ := c
    have hc := (wf_cons k u m).mp h
    unfold Memory.write
    split
    · rw [wf_cons]; exact ⟨by simpa using ‹a < k›, h⟩
    · split
      · rename_i hk
        subst hk
        rw [wf_cons]; exact hc
      · rw [wf_cons]
        refine ⟨fun c' hc' => ?_, ih hc.2⟩
        rcases head_write m a v c' hc' with h1 | ⟨d, hd, h1⟩
        · omega
        · rw [h1]; exact hc.1 d hd

/-- Writing bytes keeps the canonical form. -/
theorem writeBytes_wf (m : Memory) (a : Nat) (vs : List Byte) (h : m.wf = true) : (m.writeBytes a vs).wf = true := by
  induction vs generalizing m a with
  | nil => exact h
  | cons v vs ih => exact ih _ _ (write_wf m a v h)

/-- A write inside keeps every listed address inside. -/
theorem write_within (m : Memory) {a size : Nat} (v : Byte) (h : m.within size = true) (ha : a < size) :
    (m.write a v).within size = true := by
  induction m with
  | nil => simpa [Memory.write, Memory.within] using ha
  | cons c m ih =>
    obtain ⟨k, u⟩ := c
    simp only [Memory.within, List.all_cons, Bool.and_eq_true, decide_eq_true_eq] at h ih
    unfold Memory.write
    split
    · simp [Memory.within, ha, h.1]
      simpa using h.2
    · split
      · simp [Memory.within, ha]
        simpa using h.2
      · simp only [Memory.within, List.all_cons, Bool.and_eq_true, decide_eq_true_eq]
        exact ⟨h.1, ih h.2⟩

/-- Writing bytes inside keeps every listed address inside. -/
theorem writeBytes_within (m : Memory) {a size : Nat} (vs : List Byte) (h : m.within size = true)
    (ha : a + vs.length ≤ size) : (m.writeBytes a vs).within size = true := by
  induction vs generalizing m a with
  | nil => exact h
  | cons v vs ih =>
    simp only [List.length_cons] at ha
    exact ih _ (write_within m v h (by omega)) (by omega)

/-- In a memory in canonical form no address below the first is listed. -/
theorem read_below (k : Nat) (u : Byte) (m : Memory) (h : Memory.wf ((k, u) :: m) = true) {x : Nat} (hx : x ≤ k) :
    m.read x = none := by
  induction m generalizing k u with
  | nil => rfl
  | cons c m ih =>
    obtain ⟨b, w⟩ := c
    have h' : k < b ∧ Memory.wf ((b, w) :: m) = true := by simpa [Memory.wf] using h
    simp [Memory.read, show b ≠ x by omega, ih b w h'.2 (by omega)]

/-- Writing the byte that is there already changes nothing, in a memory in canonical form. -/
theorem write_same (m : Memory) (a : Nat) (v : Byte) (h : m.wf = true) (hr : m.read a = some v) : m.write a v = m := by
  induction m with
  | nil => simp at hr
  | cons c m ih =>
    obtain ⟨k, u⟩ := c
    have hc := (wf_cons k u m).mp h
    by_cases hk : k = a
    · subst hk
      simp [Memory.read] at hr
      simp [Memory.write, hr]
    · have hr' : Memory.read m a = some v := by simpa [Memory.read, hk] using hr
      have hlt : ¬ a < k := fun hlt => by
        simp [read_below k u m h (Nat.le_of_lt hlt)] at hr'
      have hk' : ¬ a = k := fun e => hk e.symm
      simp [Memory.write, hlt, hk', ih hc.2 hr']

/-- Equal memories are equal data: two memories in canonical form that read alike everywhere are equal. -/
theorem ext_of_read (m m' : Memory) (h : m.wf = true) (h' : m'.wf = true) (hr : ∀ a, m.read a = m'.read a) : m = m' := by
  induction m generalizing m' with
  | nil =>
    cases m' with
    | nil => rfl
    | cons c m' => obtain ⟨k, u⟩ := c; simpa [Memory.read] using hr k
  | cons c m ih =>
    obtain ⟨k, u⟩ := c
    cases m' with
    | nil => simpa [Memory.read] using hr k
    | cons c' m' =>
      obtain ⟨k', u'⟩ := c'
      have hk : k = k' := by
        rcases Nat.lt_trichotomy k k' with hlt | he | hlt
        · have h1 := hr k
          rw [show Memory.read ((k', u') :: m') k = none by
            simp [Memory.read, show k' ≠ k by omega, read_below k' u' m' h' (Nat.le_of_lt hlt)]] at h1
          simp [Memory.read] at h1
        · exact he
        · have h1 := hr k'
          rw [show Memory.read ((k, u) :: m) k' = none by
            simp [Memory.read, show k ≠ k' by omega, read_below k u m h (Nat.le_of_lt hlt)]] at h1
          simp [Memory.read] at h1
      subst hk
      have hu : u = u' := by simpa [Memory.read] using hr k
      subst hu
      rw [ih m' ((wf_cons k u m).mp h).2 ((wf_cons k u m').mp h').2 fun a => ?_]
      by_cases ha : k = a
      · subst ha
        rw [read_below k u m h (Nat.le_refl _), read_below k u m' h' (Nat.le_refl _)]
      · simpa [Memory.read, ha] using hr a

end Sys2Proof.Machine.Memory
end

