-- ==== Sys2Proof/Laws/State.lean ====
section
/-! SUPPORT. One lemma per field and named update of State, true by rfl: no later proof unfolds a record update. -/

namespace Sys2Proof.Machine.State

/-! ### configure -/

@[simp] theorem configure_inst (s : State) : s.configure.inst = s.inst := rfl
@[simp] theorem configure_edge (s : State) : s.configure.edge = s.edge := rfl
@[simp] theorem configure_bufKey (s : State) : s.configure.bufKey = s.bufKey := rfl
@[simp] theorem configure_buf (s : State) : s.configure.buf = s.buf := rfl
@[simp] theorem configure_dir (s : State) : s.configure.dir = true := rfl
@[simp] theorem configure_dout (s : State) : s.configure.dout = s.dout := rfl
@[simp] theorem configure_phase (s : State) : s.configure.phase = s.phase := rfl
@[simp] theorem configure_ptr (s : State) : s.configure.ptr = s.ptr := rfl
@[simp] theorem configure_cnt (s : State) : s.configure.cnt = s.cnt := rfl
@[simp] theorem configure_bitn (s : State) : s.configure.bitn = s.bitn := rfl
@[simp] theorem configure_shr (s : State) : s.configure.shr = s.shr := rfl
@[simp] theorem configure_tcnt (s : State) : s.configure.tcnt = s.tcnt := rfl
@[simp] theorem configure_rsp (s : State) : s.configure.rsp = s.rsp := rfl
@[simp] theorem configure_rspValid (s : State) : s.configure.rspValid = s.rspValid := rfl
@[simp] theorem configure_savedIe (s : State) : s.configure.savedIe = s.savedIe := rfl
@[simp] theorem configure_ie (s : State) : s.configure.ie = s.ie := rfl
@[simp] theorem configure_rstQ (s : State) : s.configure.rstQ = s.rstQ := rfl
@[simp] theorem configure_inputs (s : State) : s.configure.inputs = s.inputs := rfl

/-! ### respond -/

@[simp] theorem respond_inst (s : State) (v : Word32) : (s.respond v).inst = s.inst := rfl
@[simp] theorem respond_edge (s : State) (v : Word32) : (s.respond v).edge = s.edge := rfl
@[simp] theorem respond_bufKey (s : State) (v : Word32) : (s.respond v).bufKey = s.bufKey := rfl
@[simp] theorem respond_buf (s : State) (v : Word32) : (s.respond v).buf = s.buf := rfl
@[simp] theorem respond_dir (s : State) (v : Word32) : (s.respond v).dir = s.dir := rfl
@[simp] theorem respond_dout (s : State) (v : Word32) : (s.respond v).dout = s.dout := rfl
@[simp] theorem respond_phase (s : State) (v : Word32) : (s.respond v).phase = s.phase := rfl
@[simp] theorem respond_ptr (s : State) (v : Word32) : (s.respond v).ptr = s.ptr := rfl
@[simp] theorem respond_cnt (s : State) (v : Word32) : (s.respond v).cnt = s.cnt := rfl
@[simp] theorem respond_bitn (s : State) (v : Word32) : (s.respond v).bitn = s.bitn := rfl
@[simp] theorem respond_shr (s : State) (v : Word32) : (s.respond v).shr = s.shr := rfl
@[simp] theorem respond_tcnt (s : State) (v : Word32) : (s.respond v).tcnt = s.tcnt := rfl
@[simp] theorem respond_rsp (s : State) (v : Word32) : (s.respond v).rsp = v := rfl
@[simp] theorem respond_rspValid (s : State) (v : Word32) : (s.respond v).rspValid = true := rfl
@[simp] theorem respond_savedIe (s : State) (v : Word32) : (s.respond v).savedIe = s.savedIe := rfl
@[simp] theorem respond_ie (s : State) (v : Word32) : (s.respond v).ie = s.ie := rfl
@[simp] theorem respond_rstQ (s : State) (v : Word32) : (s.respond v).rstQ = s.rstQ := rfl
@[simp] theorem respond_inputs (s : State) (v : Word32) : (s.respond v).inputs = s.inputs := rfl

/-! ### noResponse -/

@[simp] theorem noResponse_inst (s : State) : s.noResponse.inst = s.inst := rfl
@[simp] theorem noResponse_edge (s : State) : s.noResponse.edge = s.edge := rfl
@[simp] theorem noResponse_bufKey (s : State) : s.noResponse.bufKey = s.bufKey := rfl
@[simp] theorem noResponse_buf (s : State) : s.noResponse.buf = s.buf := rfl
@[simp] theorem noResponse_dir (s : State) : s.noResponse.dir = s.dir := rfl
@[simp] theorem noResponse_dout (s : State) : s.noResponse.dout = s.dout := rfl
@[simp] theorem noResponse_phase (s : State) : s.noResponse.phase = s.phase := rfl
@[simp] theorem noResponse_ptr (s : State) : s.noResponse.ptr = s.ptr := rfl
@[simp] theorem noResponse_cnt (s : State) : s.noResponse.cnt = s.cnt := rfl
@[simp] theorem noResponse_bitn (s : State) : s.noResponse.bitn = s.bitn := rfl
@[simp] theorem noResponse_shr (s : State) : s.noResponse.shr = s.shr := rfl
@[simp] theorem noResponse_tcnt (s : State) : s.noResponse.tcnt = s.tcnt := rfl
@[simp] theorem noResponse_rsp (s : State) : s.noResponse.rsp = s.rsp := rfl
@[simp] theorem noResponse_rspValid (s : State) : s.noResponse.rspValid = false := rfl
@[simp] theorem noResponse_savedIe (s : State) : s.noResponse.savedIe = s.savedIe := rfl
@[simp] theorem noResponse_ie (s : State) : s.noResponse.ie = s.ie := rfl
@[simp] theorem noResponse_rstQ (s : State) : s.noResponse.rstQ = s.rstQ := rfl
@[simp] theorem noResponse_inputs (s : State) : s.noResponse.inputs = s.inputs := rfl

/-! ### enterCritical -/

@[simp] theorem enterCritical_inst (s : State) : s.enterCritical.inst = s.inst := rfl
@[simp] theorem enterCritical_edge (s : State) : s.enterCritical.edge = s.edge := rfl
@[simp] theorem enterCritical_bufKey (s : State) : s.enterCritical.bufKey = s.bufKey := rfl
@[simp] theorem enterCritical_buf (s : State) : s.enterCritical.buf = s.buf := rfl
@[simp] theorem enterCritical_dir (s : State) : s.enterCritical.dir = s.dir := rfl
@[simp] theorem enterCritical_dout (s : State) : s.enterCritical.dout = s.dout := rfl
@[simp] theorem enterCritical_phase (s : State) : s.enterCritical.phase = s.phase := rfl
@[simp] theorem enterCritical_ptr (s : State) : s.enterCritical.ptr = s.ptr := rfl
@[simp] theorem enterCritical_cnt (s : State) : s.enterCritical.cnt = s.cnt := rfl
@[simp] theorem enterCritical_bitn (s : State) : s.enterCritical.bitn = s.bitn := rfl
@[simp] theorem enterCritical_shr (s : State) : s.enterCritical.shr = s.shr := rfl
@[simp] theorem enterCritical_tcnt (s : State) : s.enterCritical.tcnt = s.tcnt := rfl
@[simp] theorem enterCritical_rsp (s : State) : s.enterCritical.rsp = s.rsp := rfl
@[simp] theorem enterCritical_rspValid (s : State) : s.enterCritical.rspValid = s.rspValid := rfl
@[simp] theorem enterCritical_savedIe (s : State) : s.enterCritical.savedIe = s.ie := rfl
@[simp] theorem enterCritical_ie (s : State) : s.enterCritical.ie = false := rfl
@[simp] theorem enterCritical_rstQ (s : State) : s.enterCritical.rstQ = s.rstQ := rfl
@[simp] theorem enterCritical_inputs (s : State) : s.enterCritical.inputs = s.inputs := rfl

/-! ### exitCritical -/

@[simp] theorem exitCritical_inst (s : State) : s.exitCritical.inst = s.inst := rfl
@[simp] theorem exitCritical_edge (s : State) : s.exitCritical.edge = s.edge := rfl
@[simp] theorem exitCritical_bufKey (s : State) : s.exitCritical.bufKey = s.bufKey := rfl
@[simp] theorem exitCritical_buf (s : State) : s.exitCritical.buf = s.buf := rfl
@[simp] theorem exitCritical_dir (s : State) : s.exitCritical.dir = s.dir := rfl
@[simp] theorem exitCritical_dout (s : State) : s.exitCritical.dout = s.dout := rfl
@[simp] theorem exitCritical_phase (s : State) : s.exitCritical.phase = s.phase := rfl
@[simp] theorem exitCritical_ptr (s : State) : s.exitCritical.ptr = s.ptr := rfl
@[simp] theorem exitCritical_cnt (s : State) : s.exitCritical.cnt = s.cnt := rfl
@[simp] theorem exitCritical_bitn (s : State) : s.exitCritical.bitn = s.bitn := rfl
@[simp] theorem exitCritical_shr (s : State) : s.exitCritical.shr = s.shr := rfl
@[simp] theorem exitCritical_tcnt (s : State) : s.exitCritical.tcnt = s.tcnt := rfl
@[simp] theorem exitCritical_rsp (s : State) : s.exitCritical.rsp = s.rsp := rfl
@[simp] theorem exitCritical_rspValid (s : State) : s.exitCritical.rspValid = s.rspValid := rfl
@[simp] theorem exitCritical_savedIe (s : State) : s.exitCritical.savedIe = s.savedIe := rfl
@[simp] theorem exitCritical_ie (s : State) : s.exitCritical.ie = s.savedIe := rfl
@[simp] theorem exitCritical_rstQ (s : State) : s.exitCritical.rstQ = s.rstQ := rfl
@[simp] theorem exitCritical_inputs (s : State) : s.exitCritical.inputs = s.inputs := rfl

/-! ### startFrame -/

@[simp] theorem startFrame_inst (s : State) (b : Byte) : (s.startFrame b).inst = s.inst := rfl
@[simp] theorem startFrame_edge (s : State) (b : Byte) : (s.startFrame b).edge = s.edge := rfl
@[simp] theorem startFrame_bufKey (s : State) (b : Byte) : (s.startFrame b).bufKey = s.bufKey := rfl
@[simp] theorem startFrame_buf (s : State) (b : Byte) : (s.startFrame b).buf = s.buf := rfl
@[simp] theorem startFrame_dir (s : State) (b : Byte) : (s.startFrame b).dir = s.dir := rfl
@[simp] theorem startFrame_dout (s : State) (b : Byte) : (s.startFrame b).dout = true := rfl
@[simp] theorem startFrame_phase (s : State) (b : Byte) : (s.startFrame b).phase = .high := rfl
@[simp] theorem startFrame_ptr (s : State) (b : Byte) : (s.startFrame b).ptr = 0 := rfl
@[simp] theorem startFrame_cnt (s : State) (b : Byte) : (s.startFrame b).cnt = BitVec.ofNat 8 s.inst.nbytes := rfl
@[simp] theorem startFrame_bitn (s : State) (b : Byte) : (s.startFrame b).bitn = 7 := rfl
@[simp] theorem startFrame_shr (s : State) (b : Byte) : (s.startFrame b).shr = b := rfl
@[simp] theorem startFrame_tcnt (s : State) (b : Byte) : (s.startFrame b).tcnt = 0 := rfl
@[simp] theorem startFrame_rsp (s : State) (b : Byte) : (s.startFrame b).rsp = s.rsp := rfl
@[simp] theorem startFrame_rspValid (s : State) (b : Byte) : (s.startFrame b).rspValid = s.rspValid := rfl
@[simp] theorem startFrame_savedIe (s : State) (b : Byte) : (s.startFrame b).savedIe = s.savedIe := rfl
@[simp] theorem startFrame_ie (s : State) (b : Byte) : (s.startFrame b).ie = s.ie := rfl
@[simp] theorem startFrame_rstQ (s : State) (b : Byte) : (s.startFrame b).rstQ = s.rstQ := rfl
@[simp] theorem startFrame_inputs (s : State) (b : Byte) : (s.startFrame b).inputs = s.inputs := rfl

/-! ### countCycle -/

@[simp] theorem countCycle_inst (s : State) : s.countCycle.inst = s.inst := rfl
@[simp] theorem countCycle_edge (s : State) : s.countCycle.edge = s.edge := rfl
@[simp] theorem countCycle_bufKey (s : State) : s.countCycle.bufKey = s.bufKey := rfl
@[simp] theorem countCycle_buf (s : State) : s.countCycle.buf = s.buf := rfl
@[simp] theorem countCycle_dir (s : State) : s.countCycle.dir = s.dir := rfl
@[simp] theorem countCycle_dout (s : State) : s.countCycle.dout = s.dout := rfl
@[simp] theorem countCycle_phase (s : State) : s.countCycle.phase = s.phase := rfl
@[simp] theorem countCycle_ptr (s : State) : s.countCycle.ptr = s.ptr := rfl
@[simp] theorem countCycle_cnt (s : State) : s.countCycle.cnt = s.cnt := rfl
@[simp] theorem countCycle_bitn (s : State) : s.countCycle.bitn = s.bitn := rfl
@[simp] theorem countCycle_shr (s : State) : s.countCycle.shr = s.shr := rfl
@[simp] theorem countCycle_tcnt (s : State) : s.countCycle.tcnt = s.tcnt + 1 := rfl
@[simp] theorem countCycle_rsp (s : State) : s.countCycle.rsp = s.rsp := rfl
@[simp] theorem countCycle_rspValid (s : State) : s.countCycle.rspValid = s.rspValid := rfl
@[simp] theorem countCycle_savedIe (s : State) : s.countCycle.savedIe = s.savedIe := rfl
@[simp] theorem countCycle_ie (s : State) : s.countCycle.ie = s.ie := rfl
@[simp] theorem countCycle_rstQ (s : State) : s.countCycle.rstQ = s.rstQ := rfl
@[simp] theorem countCycle_inputs (s : State) : s.countCycle.inputs = s.inputs := rfl

/-! ### fall -/

@[simp] theorem fall_inst (s : State) : s.fall.inst = s.inst := rfl
@[simp] theorem fall_edge (s : State) : s.fall.edge = s.edge := rfl
@[simp] theorem fall_bufKey (s : State) : s.fall.bufKey = s.bufKey := rfl
@[simp] theorem fall_buf (s : State) : s.fall.buf = s.buf := rfl
@[simp] theorem fall_dir (s : State) : s.fall.dir = s.dir := rfl
@[simp] theorem fall_dout (s : State) : s.fall.dout = false := rfl
@[simp] theorem fall_phase (s : State) : s.fall.phase = .low := rfl
@[simp] theorem fall_ptr (s : State) : s.fall.ptr = s.ptr := rfl
@[simp] theorem fall_cnt (s : State) : s.fall.cnt = s.cnt := rfl
@[simp] theorem fall_bitn (s : State) : s.fall.bitn = s.bitn := rfl
@[simp] theorem fall_shr (s : State) : s.fall.shr = s.shr := rfl
@[simp] theorem fall_tcnt (s : State) : s.fall.tcnt = s.tcnt := rfl
@[simp] theorem fall_rsp (s : State) : s.fall.rsp = s.rsp := rfl
@[simp] theorem fall_rspValid (s : State) : s.fall.rspValid = s.rspValid := rfl
@[simp] theorem fall_savedIe (s : State) : s.fall.savedIe = s.savedIe := rfl
@[simp] theorem fall_ie (s : State) : s.fall.ie = s.ie := rfl
@[simp] theorem fall_rstQ (s : State) : s.fall.rstQ = s.rstQ := rfl
@[simp] theorem fall_inputs (s : State) : s.fall.inputs = s.inputs := rfl

/-! ### nextBit -/

@[simp] theorem nextBit_inst (s : State) : s.nextBit.inst = s.inst := rfl
@[simp] theorem nextBit_edge (s : State) : s.nextBit.edge = s.edge := rfl
@[simp] theorem nextBit_bufKey (s : State) : s.nextBit.bufKey = s.bufKey := rfl
@[simp] theorem nextBit_buf (s : State) : s.nextBit.buf = s.buf := rfl
@[simp] theorem nextBit_dir (s : State) : s.nextBit.dir = s.dir := rfl
@[simp] theorem nextBit_dout (s : State) : s.nextBit.dout = s.dout := rfl
@[simp] theorem nextBit_phase (s : State) : s.nextBit.phase = s.phase := rfl
@[simp] theorem nextBit_ptr (s : State) : s.nextBit.ptr = s.ptr := rfl
@[simp] theorem nextBit_cnt (s : State) : s.nextBit.cnt = s.cnt := rfl
@[simp] theorem nextBit_bitn (s : State) : s.nextBit.bitn = s.bitn - 1 := rfl
@[simp] theorem nextBit_shr (s : State) : s.nextBit.shr = s.shr <<< 1 := rfl
@[simp] theorem nextBit_tcnt (s : State) : s.nextBit.tcnt = s.tcnt := rfl
@[simp] theorem nextBit_rsp (s : State) : s.nextBit.rsp = s.rsp := rfl
@[simp] theorem nextBit_rspValid (s : State) : s.nextBit.rspValid = s.rspValid := rfl
@[simp] theorem nextBit_savedIe (s : State) : s.nextBit.savedIe = s.savedIe := rfl
@[simp] theorem nextBit_ie (s : State) : s.nextBit.ie = s.ie := rfl
@[simp] theorem nextBit_rstQ (s : State) : s.nextBit.rstQ = s.rstQ := rfl
@[simp] theorem nextBit_inputs (s : State) : s.nextBit.inputs = s.inputs := rfl

/-! ### nextByte -/

@[simp] theorem nextByte_inst (s : State) (b : Byte) : (s.nextByte b).inst = s.inst := rfl
@[simp] theorem nextByte_edge (s : State) (b : Byte) : (s.nextByte b).edge = s.edge := rfl
@[simp] theorem nextByte_bufKey (s : State) (b : Byte) : (s.nextByte b).bufKey = s.bufKey := rfl
@[simp] theorem nextByte_buf (s : State) (b : Byte) : (s.nextByte b).buf = s.buf := rfl
@[simp] theorem nextByte_dir (s : State) (b : Byte) : (s.nextByte b).dir = s.dir := rfl
@[simp] theorem nextByte_dout (s : State) (b : Byte) : (s.nextByte b).dout = s.dout := rfl
@[simp] theorem nextByte_phase (s : State) (b : Byte) : (s.nextByte b).phase = s.phase := rfl
@[simp] theorem nextByte_ptr (s : State) (b : Byte) : (s.nextByte b).ptr = s.ptr + 1 := rfl
@[simp] theorem nextByte_cnt (s : State) (b : Byte) : (s.nextByte b).cnt = s.cnt - 1 := rfl
@[simp] theorem nextByte_bitn (s : State) (b : Byte) : (s.nextByte b).bitn = 7 := rfl
@[simp] theorem nextByte_shr (s : State) (b : Byte) : (s.nextByte b).shr = b := rfl
@[simp] theorem nextByte_tcnt (s : State) (b : Byte) : (s.nextByte b).tcnt = s.tcnt := rfl
@[simp] theorem nextByte_rsp (s : State) (b : Byte) : (s.nextByte b).rsp = s.rsp := rfl
@[simp] theorem nextByte_rspValid (s : State) (b : Byte) : (s.nextByte b).rspValid = s.rspValid := rfl
@[simp] theorem nextByte_savedIe (s : State) (b : Byte) : (s.nextByte b).savedIe = s.savedIe := rfl
@[simp] theorem nextByte_ie (s : State) (b : Byte) : (s.nextByte b).ie = s.ie := rfl
@[simp] theorem nextByte_rstQ (s : State) (b : Byte) : (s.nextByte b).rstQ = s.rstQ := rfl
@[simp] theorem nextByte_inputs (s : State) (b : Byte) : (s.nextByte b).inputs = s.inputs := rfl

/-! ### rise -/

@[simp] theorem rise_inst (s : State) : s.rise.inst = s.inst := rfl
@[simp] theorem rise_edge (s : State) : s.rise.edge = s.edge := rfl
@[simp] theorem rise_bufKey (s : State) : s.rise.bufKey = s.bufKey := rfl
@[simp] theorem rise_buf (s : State) : s.rise.buf = s.buf := rfl
@[simp] theorem rise_dir (s : State) : s.rise.dir = s.dir := rfl
@[simp] theorem rise_dout (s : State) : s.rise.dout = true := rfl
@[simp] theorem rise_phase (s : State) : s.rise.phase = .high := rfl
@[simp] theorem rise_ptr (s : State) : s.rise.ptr = s.ptr := rfl
@[simp] theorem rise_cnt (s : State) : s.rise.cnt = s.cnt := rfl
@[simp] theorem rise_bitn (s : State) : s.rise.bitn = s.bitn := rfl
@[simp] theorem rise_shr (s : State) : s.rise.shr = s.shr := rfl
@[simp] theorem rise_tcnt (s : State) : s.rise.tcnt = 0 := rfl
@[simp] theorem rise_rsp (s : State) : s.rise.rsp = s.rsp := rfl
@[simp] theorem rise_rspValid (s : State) : s.rise.rspValid = s.rspValid := rfl
@[simp] theorem rise_savedIe (s : State) : s.rise.savedIe = s.savedIe := rfl
@[simp] theorem rise_ie (s : State) : s.rise.ie = s.ie := rfl
@[simp] theorem rise_rstQ (s : State) : s.rise.rstQ = s.rstQ := rfl
@[simp] theorem rise_inputs (s : State) : s.rise.inputs = s.inputs := rfl

/-! ### goIdle -/

@[simp] theorem goIdle_inst (s : State) : s.goIdle.inst = s.inst := rfl
@[simp] theorem goIdle_edge (s : State) : s.goIdle.edge = s.edge := rfl
@[simp] theorem goIdle_bufKey (s : State) : s.goIdle.bufKey = s.bufKey := rfl
@[simp] theorem goIdle_buf (s : State) : s.goIdle.buf = s.buf := rfl
@[simp] theorem goIdle_dir (s : State) : s.goIdle.dir = s.dir := rfl
@[simp] theorem goIdle_dout (s : State) : s.goIdle.dout = s.dout := rfl
@[simp] theorem goIdle_phase (s : State) : s.goIdle.phase = .idle := rfl
@[simp] theorem goIdle_ptr (s : State) : s.goIdle.ptr = s.ptr := rfl
@[simp] theorem goIdle_cnt (s : State) : s.goIdle.cnt = s.cnt := rfl
@[simp] theorem goIdle_bitn (s : State) : s.goIdle.bitn = s.bitn := rfl
@[simp] theorem goIdle_shr (s : State) : s.goIdle.shr = s.shr := rfl
@[simp] theorem goIdle_tcnt (s : State) : s.goIdle.tcnt = s.tcnt := rfl
@[simp] theorem goIdle_rsp (s : State) : s.goIdle.rsp = s.rsp := rfl
@[simp] theorem goIdle_rspValid (s : State) : s.goIdle.rspValid = s.rspValid := rfl
@[simp] theorem goIdle_savedIe (s : State) : s.goIdle.savedIe = s.savedIe := rfl
@[simp] theorem goIdle_ie (s : State) : s.goIdle.ie = s.ie := rfl
@[simp] theorem goIdle_rstQ (s : State) : s.goIdle.rstQ = s.rstQ := rfl
@[simp] theorem goIdle_inputs (s : State) : s.goIdle.inputs = s.inputs := rfl

/-! ### advance -/

@[simp] theorem advance_inst (s : State) : s.advance.inst = s.inst := rfl
@[simp] theorem advance_edge (s : State) : s.advance.edge = s.edge + 1 := rfl
@[simp] theorem advance_bufKey (s : State) : s.advance.bufKey = s.bufKey := rfl
@[simp] theorem advance_buf (s : State) : s.advance.buf = s.buf := rfl
@[simp] theorem advance_dir (s : State) : s.advance.dir = s.dir := rfl
@[simp] theorem advance_dout (s : State) : s.advance.dout = s.dout := rfl
@[simp] theorem advance_phase (s : State) : s.advance.phase = s.phase := rfl
@[simp] theorem advance_ptr (s : State) : s.advance.ptr = s.ptr := rfl
@[simp] theorem advance_cnt (s : State) : s.advance.cnt = s.cnt := rfl
@[simp] theorem advance_bitn (s : State) : s.advance.bitn = s.bitn := rfl
@[simp] theorem advance_shr (s : State) : s.advance.shr = s.shr := rfl
@[simp] theorem advance_tcnt (s : State) : s.advance.tcnt = s.tcnt := rfl
@[simp] theorem advance_rsp (s : State) : s.advance.rsp = s.rsp := rfl
@[simp] theorem advance_rspValid (s : State) : s.advance.rspValid = s.rspValid := rfl
@[simp] theorem advance_savedIe (s : State) : s.advance.savedIe = s.savedIe := rfl
@[simp] theorem advance_ie (s : State) : s.advance.ie = s.ie := rfl
@[simp] theorem advance_rstQ (s : State) : s.advance.rstQ = s.input.rst := rfl
@[simp] theorem advance_inputs (s : State) : s.advance.inputs = s.inputs.tail := rfl

/-! ### takeReset -/

@[simp] theorem takeReset_inst (s : State) : s.takeReset.inst = s.inst := rfl
@[simp] theorem takeReset_edge (s : State) : s.takeReset.edge = s.edge := rfl
@[simp] theorem takeReset_bufKey (s : State) : s.takeReset.bufKey = s.edge := rfl
@[simp] theorem takeReset_buf (s : State) : s.takeReset.buf = [] := rfl
@[simp] theorem takeReset_dir (s : State) : s.takeReset.dir = false := rfl
@[simp] theorem takeReset_dout (s : State) : s.takeReset.dout = false := rfl
@[simp] theorem takeReset_phase (s : State) : s.takeReset.phase = .idle := rfl
@[simp] theorem takeReset_ptr (s : State) : s.takeReset.ptr = Config.freePtr s.edge := rfl
@[simp] theorem takeReset_cnt (s : State) : s.takeReset.cnt = Config.freeCnt s.edge := rfl
@[simp] theorem takeReset_bitn (s : State) : s.takeReset.bitn = Config.freeBitn s.edge := rfl
@[simp] theorem takeReset_shr (s : State) : s.takeReset.shr = Config.freeShr s.edge := rfl
@[simp] theorem takeReset_tcnt (s : State) : s.takeReset.tcnt = Config.freeTcnt s.edge := rfl
@[simp] theorem takeReset_rsp (s : State) : s.takeReset.rsp = Config.freeRsp s.edge := rfl
@[simp] theorem takeReset_rspValid (s : State) : s.takeReset.rspValid = false := rfl
@[simp] theorem takeReset_savedIe (s : State) : s.takeReset.savedIe = Config.freeSavedIe s.edge := rfl
@[simp] theorem takeReset_ie (s : State) : s.takeReset.ie = if s.busy then Config.freeIe s.edge else s.ie := rfl
@[simp] theorem takeReset_rstQ (s : State) : s.takeReset.rstQ = s.rstQ := rfl
@[simp] theorem takeReset_inputs (s : State) : s.takeReset.inputs = s.inputs := rfl

/-! ### writeIe -/

@[simp] theorem writeIe_inst (s : State) (w : Option Bool) : (s.writeIe w).inst = s.inst := rfl
@[simp] theorem writeIe_edge (s : State) (w : Option Bool) : (s.writeIe w).edge = s.edge := rfl
@[simp] theorem writeIe_bufKey (s : State) (w : Option Bool) : (s.writeIe w).bufKey = s.bufKey := rfl
@[simp] theorem writeIe_buf (s : State) (w : Option Bool) : (s.writeIe w).buf = s.buf := rfl
@[simp] theorem writeIe_dir (s : State) (w : Option Bool) : (s.writeIe w).dir = s.dir := rfl
@[simp] theorem writeIe_dout (s : State) (w : Option Bool) : (s.writeIe w).dout = s.dout := rfl
@[simp] theorem writeIe_phase (s : State) (w : Option Bool) : (s.writeIe w).phase = s.phase := rfl
@[simp] theorem writeIe_ptr (s : State) (w : Option Bool) : (s.writeIe w).ptr = s.ptr := rfl
@[simp] theorem writeIe_cnt (s : State) (w : Option Bool) : (s.writeIe w).cnt = s.cnt := rfl
@[simp] theorem writeIe_bitn (s : State) (w : Option Bool) : (s.writeIe w).bitn = s.bitn := rfl
@[simp] theorem writeIe_shr (s : State) (w : Option Bool) : (s.writeIe w).shr = s.shr := rfl
@[simp] theorem writeIe_tcnt (s : State) (w : Option Bool) : (s.writeIe w).tcnt = s.tcnt := rfl
@[simp] theorem writeIe_rsp (s : State) (w : Option Bool) : (s.writeIe w).rsp = s.rsp := rfl
@[simp] theorem writeIe_rspValid (s : State) (w : Option Bool) : (s.writeIe w).rspValid = s.rspValid := rfl
@[simp] theorem writeIe_savedIe (s : State) (w : Option Bool) : (s.writeIe w).savedIe = s.savedIe := rfl
@[simp] theorem writeIe_ie (s : State) (w : Option Bool) : (s.writeIe w).ie = w.getD s.ie := rfl
@[simp] theorem writeIe_rstQ (s : State) (w : Option Bool) : (s.writeIe w).rstQ = s.rstQ := rfl
@[simp] theorem writeIe_inputs (s : State) (w : Option Bool) : (s.writeIe w).inputs = s.inputs := rfl

end Sys2Proof.Machine.State
end

