-- ==== Sys2Proof/Laws/Ops.lean ====
section
/-! SUPPORT. One lemma per shared operation that says everything it can do: the parameters' bounds, the buffer accesses, the
index check, the whole accesses of a command, the frames. -/

namespace Sys2Proof.Machine

/-! ### Parameters (R7) -/

theorem nbytes_pos (p : Config.Params) : 3 ≤ p.nbytes := by
  have := p.n_pos
  unfold Config.Params.nbytes
  omega

theorem nbytes_le (p : Config.Params) : p.nbytes ≤ 255 := by
  have := p.n_fits
  unfold Config.Params.nbytes
  omega

theorem highCycles_pos (p : Config.Params) (b : Bool) : 1 ≤ p.highCycles b := by
  have h0 := p.t0h_pos
  have h1 := p.t0h_lt
  cases b <;> simp [Config.Params.highCycles] <;> omega

theorem highCycles_lt (p : Config.Params) (b : Bool) : p.highCycles b < p.tBit := by
  have h0 := p.t0h_lt
  have h1 := p.t1h_lt
  cases b <;> simp [Config.Params.highCycles] <;> omega

/-- The slot of a valid index lies inside the buffer (R54, R55, R57). -/
theorem slot_fits {idx : Byte} {p : Config.Params} (h : idx.toNat < p.n) : slot idx + 3 ≤ p.nbytes := by
  unfold slot Config.Params.nbytes
  omega

/-! ### The index check (R55) -/

theorem withIndex_of_lt {m : String} {idx : Byte} {s : State} {k : Host.Outcome State Fault Refusal}
    (h : idx.toNat < s.inst.n) : withIndex m idx s k = k := if_pos h

theorem withIndex_of_ge {m : String} {idx : Byte} {s : State} {k : Host.Outcome State Fault Refusal}
    (h : ¬ idx.toNat < s.inst.n) : withIndex m idx s k = .refused (.indexOutOfRange m idx) := if_neg h

/-! ### Buffer accesses -/

/-- The state after a store of `v` from `a` up, by a command that does not respond. -/
def State.stored (s : State) (a : Nat) (v : List Byte) : State :=
  { s with buf := s.buf.writeBytes a v, rspValid := false }

theorem storeBytes_fits {a : Nat} {v : List Byte} {s : State} (h : a + v.length ≤ s.inst.nbytes) :
    storeBytes a v s = .next (s.stored a v) := by
  simp [storeBytes, State.memWrite, h, State.noResponse, State.stored]

theorem storeBytes_outside {a : Nat} {v : List Byte} {s : State} (h : ¬ a + v.length ≤ s.inst.nbytes) :
    storeBytes a v s = .fault (.outsideBuffer a) := by
  simp [storeBytes, State.memWrite, h]

theorem storeColor_valid {idx : Byte} {c : Color} {s : State} (h : idx.toNat < s.inst.n) :
    storeColor idx c s = .next (s.stored (slot idx) (wire c)) :=
  storeBytes_fits (slot_fits h)

theorem memRead_fits {a n : Nat} {s : State} (h : a + n ≤ s.inst.nbytes) :
    s.memRead a n = some ((List.range n).map fun i => s.loadByte (a + i)) := if_pos h

theorem memRead_outside {a n : Nat} {s : State} (h : ¬ a + n ≤ s.inst.nbytes) : s.memRead a n = none := if_neg h

/-- The colour a slot holds. -/
def State.slotColor (s : State) (idx : Byte) : Color :=
  ⟨s.loadByte (slot idx), s.loadByte (slot idx + 1), s.loadByte (slot idx + 2)⟩

theorem loadColor_valid {idx : Byte} {s : State} {k : Color → Host.Outcome State Fault Refusal}
    (h : idx.toNat < s.inst.n) : loadColor idx s k = k (s.slotColor idx) := by
  simp [loadColor, memRead_fits (slot_fits h), List.range_succ, unwire, State.slotColor]

theorem loadOne_fits {a : Nat} {s : State} {k : Byte → Host.Outcome State Fault Refusal}
    (h : a + 1 ≤ s.inst.nbytes) : loadOne a s k = k (s.loadByte a) := by
  simp [loadOne, memRead_fits h]

theorem loadOne_outside {a : Nat} {s : State} {k : Byte → Host.Outcome State Fault Refusal}
    (h : ¬ a + 1 ≤ s.inst.nbytes) : loadOne a s k = .fault (.outsideBuffer a) := by
  simp [loadOne, memRead_outside h]

/-! ### Bytes read after a store -/

/-- `BUF` reads depend on the listed bytes and on the reset they date from, on nothing else. -/
theorem loadByte_congr {s t : State} (hb : t.buf = s.buf) (hk : t.bufKey = s.bufKey) (a : Nat) :
    t.loadByte a = s.loadByte a := by
  unfold State.loadByte
  rw [hb, hk]

theorem stored_loadByte_outside (s : State) (a : Nat) (v : List Byte) {x : Nat} (h : x < a ∨ a + v.length ≤ x) :
    (s.stored a v).loadByte x = s.loadByte x := by
  simp [State.stored, State.loadByte, Memory.read_writeBytes_outside _ _ _ h]

theorem stored_loadByte_inside (s : State) (a : Nat) (v : List Byte) {i : Nat} (h : i < v.length) :
    (s.stored a v).loadByte (a + i) = v[i] := by
  simp [State.stored, State.loadByte, Memory.read_writeBytes_inside _ _ _ h]

theorem stored_wire_green (s : State) (a : Nat) (c : Color) : (s.stored a (wire c)).loadByte a = c.g := by
  simpa [wire] using stored_loadByte_inside s a (wire c) (i := 0) (by simp [wire])

theorem stored_wire_red (s : State) (a : Nat) (c : Color) : (s.stored a (wire c)).loadByte (a + 1) = c.r := by
  simpa [wire] using stored_loadByte_inside s a (wire c) (i := 1) (by simp [wire])

theorem stored_wire_blue (s : State) (a : Nat) (c : Color) : (s.stored a (wire c)).loadByte (a + 2) = c.b := by
  simpa [wire] using stored_loadByte_inside s a (wire c) (i := 2) (by simp [wire])

/-! ### Frames -/

theorem stored_keepsControl (s : State) (a : Nat) (v : List Byte) : KeepsControl s (s.stored a v) := by
  simp [KeepsControl, State.stored]

theorem stored_noResponse (s : State) (a : Nat) (v : List Byte) : NoResponse s (s.stored a v) := by
  simp [NoResponse, State.stored]

theorem stored_kept (s : State) (a : Nat) (v : List Byte) : BytesKeptOutside a v.length s (s.stored a v) :=
  fun _ h => stored_loadByte_outside s a v h

theorem respond_keepsControl (s : State) (v : Word32) : KeepsControl s (s.respond v) := by
  simp [KeepsControl]

theorem respond_responds (s : State) (v : Word32) : Responds v (s.respond v) := ⟨rfl, rfl⟩

theorem respond_kept (s : State) (v : Word32) : BytesKept s (s.respond v) := fun _ => rfl

theorem stored_inst (s : State) (a : Nat) (v : List Byte) : (s.stored a v).inst = s.inst := rfl

/-- A store inside the buffer keeps its canonical form and its bounds. -/
theorem stored_bufInv {s : State} {a : Nat} {v : List Byte} (h : s.bufInv = true) (hf : a + v.length ≤ s.inst.nbytes) :
    (s.stored a v).bufInv = true := by
  simp only [State.bufInv, Bool.and_eq_true] at h ⊢
  exact ⟨Memory.writeBytes_wf _ _ _ h.1, Memory.writeBytes_within _ _ h.2 hf⟩

end Sys2Proof.Machine
end

