-- ==== Sys2Proof/Laws/Exec.lean ====
section
/-! SUPPORT. One lemma per command: what it answers (R130 to R149, R171). Callers cite these and do not unfold a meaning. -/

namespace Sys2Proof.Machine

/-- The first byte of the buffer exists (R171). -/
theorem exec_commit (s : State) :
    exec .commit s = .next (s.enterCritical.startFrame (s.loadByte 0)).noResponse := by
  have := nbytes_pos s.inst
  simp only [exec, execCommit]
  rw [loadOne_fits (by omega)]

theorem exec_begin (s : State) :
    exec .beginStrip s = .next (s.configure.stored 0 (List.replicate s.inst.nbytes 0)) := by
  simp only [exec, execBegin]
  rw [storeBytes_fits (by simp)]

theorem exec_size (s : State) : exec .size s = .next (s.respond (BitVec.ofNat 32 s.inst.n)) := rfl

section Valid

variable {s : State} {idx : Byte} (h : idx.toNat < s.inst.n)
include h

theorem exec_setRgb (r g b : Byte) :
    exec (.setRgb idx r g b) s = .next (s.stored (slot idx) (wire (mkRGB r g b))) := by
  simp only [exec, execSetRgb]
  rw [withIndex_of_lt h, storeColor_valid h, literalRgb]

theorem exec_setBrgb (k r g b : Byte) :
    exec (.setBrgb idx k r g b) s = .next (s.stored (slot idx) (wire (mkBRGB k r g b))) := by
  simp only [exec, execSetBrgb]
  rw [withIndex_of_lt h, storeColor_valid h, literalBrgb]

theorem exec_setPacked (w : Word32) :
    exec (.setPacked idx w) s = .next (s.stored (slot idx) (wire (mkPacked w))) := by
  simp only [exec, execSetPacked]
  rw [withIndex_of_lt h, storeColor_valid h, literalPacked]

theorem exec_setSeq0 : exec (.setSeq0 idx) s = .next (s.stored (slot idx) (wire (mkSeq .s0))) := by
  simp only [exec, execSetSeq0]
  rw [withIndex_of_lt h, storeColor_valid h, literalSeq]

theorem exec_setSeq1 (v0 : Byte) :
    exec (.setSeq1 idx v0) s = .next (s.stored (slot idx) (wire (mkSeq (.s1 v0)))) := by
  simp only [exec, execSetSeq1]
  rw [withIndex_of_lt h, storeColor_valid h, literalSeq]

theorem exec_setSeq2 (v0 v1 : Byte) :
    exec (.setSeq2 idx v0 v1) s = .next (s.stored (slot idx) (wire (mkSeq (.s2 v0 v1)))) := by
  simp only [exec, execSetSeq2]
  rw [withIndex_of_lt h, storeColor_valid h, literalSeq]

theorem exec_setSeq3 (v0 v1 v2 : Byte) :
    exec (.setSeq3 idx v0 v1 v2) s = .next (s.stored (slot idx) (wire (mkSeq (.s3 v0 v1 v2)))) := by
  simp only [exec, execSetSeq3]
  rw [withIndex_of_lt h, storeColor_valid h, literalSeq]

theorem exec_setSeq4 (v0 v1 v2 v3 : Byte) :
    exec (.setSeq4 idx v0 v1 v2 v3) s = .next (s.stored (slot idx) (wire (mkSeq (.s4 v0 v1 v2 v3)))) := by
  simp only [exec, execSetSeq4]
  rw [withIndex_of_lt h, storeColor_valid h, literalSeq]

theorem exec_get : exec (.get idx) s = .next (s.respond (rgb24 (s.slotColor idx))) := by
  simp only [exec, execGet]
  rw [withIndex_of_lt h, loadColor_valid h]

theorem exec_getR : exec (.getR idx) s = .next (s.respond (zext32 (s.slotColor idx).r)) := by
  have := slot_fits h
  simp only [exec, execGetR]
  rw [withIndex_of_lt h, loadOne_fits (by unfold redAt; omega)]
  rfl

theorem exec_getG : exec (.getG idx) s = .next (s.respond (zext32 (s.slotColor idx).g)) := by
  have := slot_fits h
  simp only [exec, execGetG]
  rw [withIndex_of_lt h, loadOne_fits (by unfold greenAt; omega)]
  rfl

theorem exec_getB : exec (.getB idx) s = .next (s.respond (zext32 (s.slotColor idx).b)) := by
  have := slot_fits h
  simp only [exec, execGetB]
  rw [withIndex_of_lt h, loadOne_fits (by unfold blueAt; omega)]
  rfl

theorem exec_putR (v : Byte) : exec (.putR idx v) s = .next (s.stored (slot idx + 1) [v]) := by
  have := slot_fits h
  simp only [exec, execPutR, redAt]
  rw [withIndex_of_lt h, storeBytes_fits (by simp; omega)]

theorem exec_putG (v : Byte) : exec (.putG idx v) s = .next (s.stored (slot idx) [v]) := by
  have := slot_fits h
  simp only [exec, execPutG, greenAt]
  rw [withIndex_of_lt h, storeBytes_fits (by simp; omega), Nat.add_zero]

theorem exec_putB (v : Byte) : exec (.putB idx v) s = .next (s.stored (slot idx + 2) [v]) := by
  have := slot_fits h
  simp only [exec, execPutB, blueAt]
  rw [withIndex_of_lt h, storeBytes_fits (by simp; omega)]

theorem exec_dim (k : Byte) :
    exec (.dim idx k) s = .next (s.stored (slot idx) (wire (scale (s.slotColor idx) k))) := by
  simp only [exec, execDim]
  rw [withIndex_of_lt h, loadColor_valid h, storeColor_valid h, dim]

theorem exec_dimmer (k : Byte) :
    exec (.dimmer idx k) s = .next (s.respond (rgb24 (scale (s.slotColor idx) k))) := by
  simp only [exec, execDimmer]
  rw [withIndex_of_lt h, loadColor_valid h, dimmer]

end Valid

/-- The commands that respond (R33). -/
def responding : Instr → Bool
  | .size | .get _ | .getR _ | .getG _ | .getB _ | .dimmer _ _ => true
  | .beginStrip | .commit | .setRgb _ _ _ _ | .setBrgb _ _ _ _ _ | .setPacked _ _ | .setSeq0 _ | .setSeq1 _ _ => false
  | .setSeq2 _ _ _ | .setSeq3 _ _ _ _ | .setSeq4 _ _ _ _ _ | .putR _ _ | .putG _ _ | .putB _ _ | .dim _ _ => false

/-- A command whose index names no LED is refused (R55). -/
theorem exec_refused {s : State} {i : Instr} {idx : Byte} (hi : i.index? = some idx) (h : ¬ idx.toNat < s.inst.n) :
    exec i s = .refused (.indexOutOfRange i.mnemonic idx) := by
  cases i <;> simp only [Instr.index?, Option.some.injEq, reduceCtorEq] at hi <;> subst hi <;> exact withIndex_of_ge h

/-- A command with a valid index answers a state in which bytes of its slot are stored, or one in which it has responded. -/
theorem exec_indexed (s : State) {i : Instr} {idx : Byte} (hi : i.index? = some idx) (h : idx.toNat < s.inst.n) :
    (responding i = false ∧ ∃ a v, slot idx ≤ a ∧ a + v.length ≤ slot idx + 3 ∧ exec i s = .next (s.stored a v)) ∨
    (responding i = true ∧ ∃ v, exec i s = .next (s.respond v)) := by
  cases i with
  | beginStrip => simp [Instr.index?] at hi
  | size => simp [Instr.index?] at hi
  | commit => simp [Instr.index?] at hi
  | setRgb j r g b =>
    obtain rfl : j = idx := by simpa [Instr.index?] using hi
    exact .inl ⟨rfl, _, _, Nat.le_refl _, Nat.le_refl _, exec_setRgb h r g b⟩
  | setBrgb j k r g b =>
    obtain rfl : j = idx := by simpa [Instr.index?] using hi
    exact .inl ⟨rfl, _, _, Nat.le_refl _, Nat.le_refl _, exec_setBrgb h k r g b⟩
  | setPacked j w =>
    obtain rfl : j = idx := by simpa [Instr.index?] using hi
    exact .inl ⟨rfl, _, _, Nat.le_refl _, Nat.le_refl _, exec_setPacked h w⟩
  | setSeq0 j =>
    obtain rfl : j = idx := by simpa [Instr.index?] using hi
    exact .inl ⟨rfl, _, _, Nat.le_refl _, Nat.le_refl _, exec_setSeq0 h⟩
  | setSeq1 j v0 =>
    obtain rfl : j = idx := by simpa [Instr.index?] using hi
    exact .inl ⟨rfl, _, _, Nat.le_refl _, Nat.le_refl _, exec_setSeq1 h v0⟩
  | setSeq2 j v0 v1 =>
    obtain rfl : j = idx := by simpa [Instr.index?] using hi
    exact .inl ⟨rfl, _, _, Nat.le_refl _, Nat.le_refl _, exec_setSeq2 h v0 v1⟩
  | setSeq3 j v0 v1 v2 =>
    obtain rfl : j = idx := by simpa [Instr.index?] using hi
    exact .inl ⟨rfl, _, _, Nat.le_refl _, Nat.le_refl _, exec_setSeq3 h v0 v1 v2⟩
  | setSeq4 j v0 v1 v2 v3 =>
    obtain rfl : j = idx := by simpa [Instr.index?] using hi
    exact .inl ⟨rfl, _, _, Nat.le_refl _, Nat.le_refl _, exec_setSeq4 h v0 v1 v2 v3⟩
  | get j =>
    obtain rfl : j = idx := by simpa [Instr.index?] using hi
    exact .inr ⟨rfl, _, exec_get h⟩
  | getR j =>
    obtain rfl : j = idx := by simpa [Instr.index?] using hi
    exact .inr ⟨rfl, _, exec_getR h⟩
  | getG j =>
    obtain rfl : j = idx := by simpa [Instr.index?] using hi
    exact .inr ⟨rfl, _, exec_getG h⟩
  | getB j =>
    obtain rfl : j = idx := by simpa [Instr.index?] using hi
    exact .inr ⟨rfl, _, exec_getB h⟩
  | putR j v =>
    obtain rfl : j = idx := by simpa [Instr.index?] using hi
    exact .inl ⟨rfl, _, _, by omega, by simp, exec_putR h v⟩
  | putG j v =>
    obtain rfl : j = idx := by simpa [Instr.index?] using hi
    exact .inl ⟨rfl, _, _, by omega, by simp, exec_putG h v⟩
  | putB j v =>
    obtain rfl : j = idx := by simpa [Instr.index?] using hi
    exact .inl ⟨rfl, _, _, by omega, by simp, exec_putB h v⟩
  | dim j k =>
    obtain rfl : j = idx := by simpa [Instr.index?] using hi
    exact .inl ⟨rfl, _, _, Nat.le_refl _, Nat.le_refl _, exec_dim h k⟩
  | dimmer j k =>
    obtain rfl : j = idx := by simpa [Instr.index?] using hi
    exact .inr ⟨rfl, _, exec_dimmer h k⟩

/-- What a command that answers a next state has done. -/
theorem exec_cases {i : Instr} {s t : State} (h : exec i s = .next t) :
    (i = .beginStrip ∧ t = s.configure.stored 0 (List.replicate s.inst.nbytes 0)) ∨
    (i = .commit ∧ t = (s.enterCritical.startFrame (s.loadByte 0)).noResponse) ∨
    (i ≠ .beginStrip ∧ i ≠ .commit ∧ responding i = true ∧ ∃ v, t = s.respond v) ∨
    (i ≠ .beginStrip ∧ i ≠ .commit ∧ responding i = false ∧ ∃ idx a v, i.index? = some idx ∧ idx.toNat < s.inst.n ∧
      slot idx ≤ a ∧ a + v.length ≤ slot idx + 3 ∧ t = s.stored a v) := by
  cases hi : i.index? with
  | none =>
    cases i with
    | beginStrip =>
      rw [exec_begin] at h
      exact .inl ⟨rfl, by simpa using h.symm⟩
    | commit =>
      rw [exec_commit] at h
      exact .inr (.inl ⟨rfl, by simpa using h.symm⟩)
    | size =>
      rw [exec_size] at h
      exact .inr (.inr (.inl ⟨by simp, by simp, rfl, _, by simpa using h.symm⟩))
    | _ => simp [Instr.index?] at hi
  | some idx =>
    have h1 : i ≠ .beginStrip := by rintro rfl; simp [Instr.index?] at hi
    have h2 : i ≠ .commit := by rintro rfl; simp [Instr.index?] at hi
    by_cases hn : idx.toNat < s.inst.n
    · rcases exec_indexed s hi hn with ⟨hr, a, v, ha, hv, he⟩ | ⟨hr, v, he⟩
      · rw [he] at h
        exact .inr (.inr (.inr ⟨h1, h2, hr, idx, a, v, rfl, hn, ha, hv, by simpa using h.symm⟩))
      · rw [he] at h
        exact .inr (.inr (.inl ⟨h1, h2, hr, v, by simpa using h.symm⟩))
    · rw [exec_refused hi hn] at h
      simp at h

end Sys2Proof.Machine
end

