-- ==== Sys2Proof/Laws/Step.lean ====
section
/-! SUPPORT. What one clock edge can do, said once per kind of edge (R221), and what one sequencer step can do, said once per
rule (R174 to R177). -/

namespace Sys2Proof.Machine

@[simp] theorem withController_next (s t : State) : withController s (.next t) = .next (controllerIe s t) := rfl

@[simp] theorem withController_fault (s : State) (f : Fault) : withController s (.fault f) = .fault f := rfl

@[simp] theorem withController_refused (s : State) (r : Refusal) : withController s (.refused r) = .refused r := rfl

/-- A next state after the controller's write comes from one before it. -/
theorem withController_eq_next {s t : State} {o : Host.Outcome State Fault Refusal} (h : withController s o = .next t) :
    ∃ u, o = .next u ∧ t = controllerIe s u := by
  cases o with
  | next u => exact ⟨u, rfl, by simpa using h.symm⟩
  | fault f => simp at h
  | refused r => simp at h

/-- The controller writes `IE` or nothing. -/
theorem controllerIe_cases (s t : State) : controllerIe s t = t ∨ controllerIe s t = t.writeIe s.input.ieWrite := by
  unfold controllerIe
  split <;> simp

theorem controllerIe_of_busy_before {s t : State} (h : s.busy = true) : controllerIe s t = t := by
  simp [controllerIe, h]

theorem controllerIe_of_busy_after {s t : State} (h : t.busy = true) : controllerIe s t = t := by
  simp [controllerIe, h]

theorem controllerIe_of_idle {s t : State} (h : s.busy = false) (h' : t.busy = false) :
    controllerIe s t = t.writeIe s.input.ieWrite := by
  simp [controllerIe, h, h']

/-! ### The kinds of edge (R221) -/

theorem step_of_reset {s : State} (h : s.input.rst = true) : step s = .next (controllerIe s s.advance.takeReset) := by
  simp [step, edgeEffect, h]

theorem step_of_busy {s : State} (h : s.input.rst = false) (hb : s.busy = true) : step s = sequencerStep s.advance := by
  have e : edgeEffect s = sequencerStep s.advance := by simp [edgeEffect, h, hb]
  rw [step, e]
  cases sequencerStep s.advance <;> simp [controllerIe_of_busy_before hb]

theorem accepts_iff (s : State) : s.accepts = true ↔
    s.input.rst = false ∧ s.input.cmdValid = true ∧ s.rstQ = false ∧ s.busy = false := by
  simp [State.accepts, State.cmdReady, and_assoc]

theorem step_of_command {s : State} {i : Instr} (h : s.accepts = true) (hd : decode s.input.cmd = .ok i) :
    step s = withController s (exec i s.advance) := by
  have ha := (accepts_iff s).mp h
  simp [step, edgeEffect, ha.1, ha.2.2.2, h, hd]

theorem step_of_reserved {s : State} {e : Reserved} (h : s.accepts = true) (hd : decode s.input.cmd = .error e) :
    step s = .refused (.reservedWord s.input.cmd) := by
  have ha := (accepts_iff s).mp h
  simp [step, edgeEffect, ha.1, ha.2.2.2, h, hd]

theorem step_of_quiet {s : State} (h : s.input.rst = false) (hb : s.busy = false) (ha : s.accepts = false) :
    step s = .next (controllerIe s s.advance.noResponse) := by
  simp [step, edgeEffect, h, hb, ha]

/-- What a step that answers a next state can have done. -/
theorem step_cases {s t : State} (h : step s = .next t) :
    (s.input.rst = true ∧ t = controllerIe s s.advance.takeReset) ∨
    (s.input.rst = false ∧ s.busy = true ∧ sequencerStep s.advance = .next t) ∨
    (∃ i u, s.accepts = true ∧ decode s.input.cmd = .ok i ∧ exec i s.advance = .next u ∧ t = controllerIe s u) ∨
    (s.input.rst = false ∧ s.busy = false ∧ s.accepts = false ∧ t = controllerIe s s.advance.noResponse) := by
  cases hr : s.input.rst with
  | true =>
    rw [step_of_reset hr] at h
    exact .inl ⟨rfl, by simpa using h.symm⟩
  | false =>
    cases hb : s.busy with
    | true =>
      rw [step_of_busy hr hb] at h
      exact .inr (.inl ⟨rfl, rfl, h⟩)
    | false =>
      cases ha : s.accepts with
      | false =>
        rw [step_of_quiet hr hb ha] at h
        exact .inr (.inr (.inr ⟨rfl, rfl, rfl, by simpa using h.symm⟩))
      | true =>
        cases hd : decode s.input.cmd with
        | error e => rw [step_of_reserved ha hd] at h; simp at h
        | ok i =>
          rw [step_of_command ha hd] at h
          obtain ⟨u, hu, ht⟩ := withController_eq_next h
          exact .inr (.inr (.inl ⟨i, u, rfl, rfl, hu, ht⟩))

/-! ### The sequencer step (R173 to R177) -/

theorem busy_iff (s : State) : s.busy = true ↔ s.phase = .high ∨ s.phase = .low := by
  unfold State.busy
  cases s.phase <;> simp

theorem idle_iff (s : State) : s.busy = false ↔ s.phase = .idle := by
  unfold State.busy
  cases s.phase <;> simp

@[simp] theorem advance_busy (s : State) : s.advance.busy = s.busy := rfl

@[simp] theorem advance_th (s : State) : s.advance.th = s.th := rfl

@[simp] theorem advance_loadByte (s : State) (a : Nat) : s.advance.loadByte a = s.loadByte a := rfl

/-- A counter below the top counts exactly. -/
theorem succ_toNat {x : Byte} (h : x.toNat + 1 < 256) : (x + 1).toNat = x.toNat + 1 := by
  simp [BitVec.toNat_add]
  omega

theorem seqHigh_of_eq {s : State} (h : s.tcnt.toNat + 1 = s.th) :
    sequencerHigh s = s.fall.countCycle.noResponse := by
  simp [sequencerHigh, h]

theorem seqHigh_of_ne {s : State} (h : s.tcnt.toNat + 1 ≠ s.th) : sequencerHigh s = s.countCycle.noResponse := by
  simp [sequencerHigh, h]

theorem sequencerStep_high {s : State} (h : s.phase = .high) : sequencerStep s = .next (sequencerHigh s) := by
  simp [sequencerStep, h]

theorem sequencerStep_low {s : State} (h : s.phase = .low) (ht : s.tcnt.toNat + 1 < s.inst.tBit) :
    sequencerStep s = .next (sequencerLow s) := by
  simp [sequencerStep, h, ht]

theorem sequencerStep_bit {s : State} (h : s.phase = .low) (ht : ¬ s.tcnt.toNat + 1 < s.inst.tBit) (hb : s.bitn ≠ 0) :
    sequencerStep s = .next s.nextBit.rise.noResponse := by
  simp only [sequencerStep, sequencerNext, h, if_neg ht]
  rw [if_pos (Or.inl hb), if_pos hb]

theorem sequencerStep_byte {s : State} (h : s.phase = .low) (ht : ¬ s.tcnt.toNat + 1 < s.inst.tBit) (hb : s.bitn = 0)
    (hc : s.cnt ≠ 1) (hp : s.ptr.toNat + 1 < s.inst.nbytes) :
    sequencerStep s = .next (s.nextByte (s.loadByte (s.ptr.toNat + 1))).rise.noResponse := by
  simp only [sequencerStep, sequencerNext, h, hb, if_neg ht]
  rw [if_pos (Or.inr hc), if_neg (by simp), loadOne_fits (by omega)]

theorem sequencerStep_end {s : State} (h : s.phase = .low) (ht : ¬ s.tcnt.toNat + 1 < s.inst.tBit) (hb : s.bitn = 0)
    (hc : s.cnt = 1) : sequencerStep s = .next (sequencerEnd s) := by
  simp [sequencerStep, h, ht, hb, hc]

/-- What a sequencer step that answers a next state can have done, in a frame. -/
theorem sequencerStep_cases {s t : State} (hb : s.busy = true) (h : sequencerStep s = .next t) :
    (s.phase = .high ∧ t = sequencerHigh s) ∨
    (s.phase = .low ∧ s.tcnt.toNat + 1 < s.inst.tBit ∧ t = sequencerLow s) ∨
    (s.phase = .low ∧ s.inst.tBit ≤ s.tcnt.toNat + 1 ∧ s.bitn ≠ 0 ∧ t = s.nextBit.rise.noResponse) ∨
    (s.phase = .low ∧ s.inst.tBit ≤ s.tcnt.toNat + 1 ∧ s.bitn = 0 ∧ s.cnt ≠ 1 ∧ s.ptr.toNat + 1 < s.inst.nbytes ∧
      t = (s.nextByte (s.loadByte (s.ptr.toNat + 1))).rise.noResponse) ∨
    (s.phase = .low ∧ s.inst.tBit ≤ s.tcnt.toNat + 1 ∧ s.bitn = 0 ∧ s.cnt = 1 ∧ t = sequencerEnd s) := by
  rcases (busy_iff s).mp hb with hp | hp
  · rw [sequencerStep_high hp] at h
    exact .inl ⟨hp, by simpa using h.symm⟩
  · by_cases ht : s.tcnt.toNat + 1 < s.inst.tBit
    · rw [sequencerStep_low hp ht] at h
      exact .inr (.inl ⟨hp, ht, by simpa using h.symm⟩)
    · by_cases h0 : s.bitn = 0
      · by_cases hc : s.cnt = 1
        · rw [sequencerStep_end hp ht h0 hc] at h
          exact .inr (.inr (.inr (.inr ⟨hp, by omega, h0, hc, by simpa using h.symm⟩)))
        · by_cases hf : s.ptr.toNat + 1 < s.inst.nbytes
          · rw [sequencerStep_byte hp ht h0 hc hf] at h
            exact .inr (.inr (.inr (.inl ⟨hp, by omega, h0, hc, hf, by simpa using h.symm⟩)))
          · exfalso
            simp only [sequencerStep, sequencerNext, hp, h0, if_neg ht] at h
            rw [if_pos (Or.inr hc), if_neg (by simp), loadOne_outside (by omega)] at h
            simp at h
      · rw [sequencerStep_bit hp ht h0] at h
        exact .inr (.inr (.inl ⟨hp, by omega, h0, by simpa using h.symm⟩))

end Sys2Proof.Machine
end

