-- ==== Sys2Proof/Laws/Invariant.lean ====
section
/-! SUPPORT. The parts of the invariant (R42) as propositions, and how to build it. -/

namespace Sys2Proof.Machine

theorem bufInv_iff (s : State) : s.bufInv = true ↔ s.buf.wf = true ∧ s.buf.within s.inst.nbytes = true := by
  simp [State.bufInv]

theorem doutInv_iff (s : State) : s.doutInv = true ↔ (s.dout = true ↔ s.phase = .high) := by
  unfold State.doutInv
  cases s.dout <;> cases s.phase <;> simp

theorem frameInv_iff (s : State) : s.frameInv = true ↔ (s.busy = true →
    s.ptr.toNat + s.cnt.toNat = s.inst.nbytes ∧ 1 ≤ s.cnt.toNat ∧ s.tcnt.toNat < s.inst.tBit ∧ s.ie = false) := by
  unfold State.frameInv
  cases s.busy <;> simp [and_assoc]

theorem highInv_iff (s : State) : s.highInv = true ↔ (s.phase = .high → s.tcnt.toNat < s.th) := by
  unfold State.highInv
  cases s.phase <;> simp

theorem resetInv_iff (s : State) : s.resetInv = true ↔
    (s.rstQ = true → s.dir = false ∧ s.busy = false ∧ s.rspValid = false) := by
  unfold State.resetInv
  cases s.rstQ <;> simp [and_assoc]

/-- The invariant, part by part. -/
theorem inv_iff (s : State) : s.Inv ↔
    (s.buf.wf = true ∧ s.buf.within s.inst.nbytes = true) ∧ (s.dout = true ↔ s.phase = .high) ∧
    (s.busy = true → s.ptr.toNat + s.cnt.toNat = s.inst.nbytes ∧ 1 ≤ s.cnt.toNat ∧ s.tcnt.toNat < s.inst.tBit ∧
      s.ie = false) ∧
    (s.phase = .high → s.tcnt.toNat < s.th) ∧
    (s.rstQ = true → s.dir = false ∧ s.busy = false ∧ s.rspValid = false) := by
  unfold State.Inv
  rw [bufInv_iff, doutInv_iff, frameInv_iff, highInv_iff, resetInv_iff]

/-- An edge without a reset, before its effect. -/
theorem inv_advance {s : State} (h : s.Inv) (hr : s.input.rst = false) : s.advance.Inv := by
  rw [inv_iff] at h ⊢
  exact ⟨h.1, h.2.1, h.2.2.1, h.2.2.2.1, fun h' => by simp [hr] at h'⟩

/-- A write of `IE` while idle. -/
theorem inv_writeIe {t : State} (hb : t.busy = false) (w : Option Bool) (h : t.Inv) : (t.writeIe w).Inv := by
  rw [inv_iff] at h ⊢
  have hb' : (t.writeIe w).busy = false := hb
  refine ⟨h.1, h.2.1, fun h' => ?_, h.2.2.2.1, h.2.2.2.2⟩
  rw [hb'] at h'
  simp at h'

/-- The controller's part of an edge. -/
theorem inv_controllerIe {s t : State} (h : t.Inv) : (controllerIe s t).Inv := by
  by_cases hs : s.busy = true
  · rw [controllerIe_of_busy_before hs]
    exact h
  · by_cases ht : t.busy = true
    · rw [controllerIe_of_busy_after ht]
      exact h
    · rw [controllerIe_of_idle (by simpa using hs) (by simpa using ht)]
      exact inv_writeIe (by simpa using ht) _ h

end Sys2Proof.Machine
end

