-- ==== Sys2Proof/Laws/Frame.lean ====
section
/-! SUPPORT. Where a state stands in a frame (R180): what the sequencer registers hold in a given cycle of a given bit period, and
one lemma per sequencer rule (R171, R174 to R177) that moves from one such place to the next; the runs a frame is made of. -/

namespace Sys2Proof.Machine

/-- The state `u` stands at cycle `r` of bit period `q` of the frame that a COMMIT accepted at the edge after `s` began. -/
structure FrameAt (s : State) (q r : Nat) (u : State) : Prop where
  inst : u.inst = s.inst
  buf : u.buf = s.buf
  bufKey : u.bufKey = s.bufKey
  dir : u.dir = s.dir
  savedIe : u.savedIe = s.ie
  ie : u.ie = false
  rstQ : u.rstQ = false
  bit : q < 24 * s.inst.n
  cycle : r < s.inst.tBit
  tcnt : u.tcnt.toNat = r
  ptr : u.ptr.toNat = q / 8
  cnt : u.ptr.toNat + u.cnt.toNat = s.inst.nbytes
  bitn : u.bitn.toNat = 7 - q % 8
  shr : u.shr = s.loadByte (q / 8) <<< (q % 8)
  high : r < s.inst.highCycles (s.frameBit q) → u.phase = .high ∧ u.dout = true
  low : s.inst.highCycles (s.frameBit q) ≤ r → u.phase = .low ∧ u.dout = false

/-- A frame is in progress. -/
theorem FrameAt.busy {s u : State} {q r : Nat} (h : FrameAt s q r u) : u.busy = true := by
  rw [busy_iff]
  by_cases hr : r < s.inst.highCycles (s.frameBit q)
  · exact .inl (h.high hr).1
  · exact .inr (h.low (by omega)).1

/-- The buffer is what it was (R42(d)). -/
theorem FrameAt.loadByte {s u : State} {q r : Nat} (h : FrameAt s q r u) (a : Nat) : u.loadByte a = s.loadByte a :=
  loadByte_congr h.buf h.bufKey a

/-- The high time is that of the bit on the pin (R172, R180). -/
theorem FrameAt.th {s u : State} {q r : Nat} (h : FrameAt s q r u) : u.th = s.inst.highCycles (s.frameBit q) := by
  unfold State.th State.frameBit
  rw [h.inst, h.shr]
  have e : (s.loadByte (q / 8) <<< (q % 8)).getLsbD 7 = (s.loadByte (q / 8)).getLsbD (7 - q % 8) := by
    simp [show ¬ 7 < q % 8 by omega]
    exact (BitVec.getLsbD_eq_getElem _).symm
  rw [e]

/-- A step inside a bit period (R174, R175). -/
theorem FrameAt.next {s u : State} {q r : Nat} (h : FrameAt s q r u) (hr : r + 1 < s.inst.tBit)
    (hq : u.input.rst = false) : ∃ t, step u = .next t ∧ FrameAt s q (r + 1) t := by
  have hle := s.inst.tBit_le
  have ht := h.tcnt
  have hs := succ_toNat (x := u.tcnt) (by omega)
  rw [step_of_busy hq h.busy]
  by_cases hh : r < s.inst.highCycles (s.frameBit q)
  · rw [sequencerStep_high (s := u.advance) (h.high hh).1]
    refine ⟨_, rfl, ?_⟩
    by_cases he : u.tcnt.toNat + 1 = u.th
    · rw [seqHigh_of_eq (s := u.advance) he]
      exact ⟨h.inst, h.buf, h.bufKey, h.dir, h.savedIe, h.ie, hq, h.bit, hr, by simpa [ht] using hs, h.ptr, h.cnt, h.bitn, h.shr,
        fun h' => by rw [h.th] at he; omega, fun _ => ⟨rfl, rfl⟩⟩
    · rw [seqHigh_of_ne (s := u.advance) he]
      exact ⟨h.inst, h.buf, h.bufKey, h.dir, h.savedIe, h.ie, hq, h.bit, hr, by simpa [ht] using hs, h.ptr, h.cnt, h.bitn, h.shr,
        fun _ => h.high hh, fun h' => by rw [h.th] at he; omega⟩
  · rw [sequencerStep_low (s := u.advance) (h.low (by omega)).1 (by simp [h.inst]; omega)]
    refine ⟨_, rfl, ?_⟩
    exact ⟨h.inst, h.buf, h.bufKey, h.dir, h.savedIe, h.ie, hq, h.bit, hr, by simpa [sequencerLow, ht] using hs, h.ptr, h.cnt, h.bitn, h.shr,
        fun h' => by omega, fun _ => h.low (by omega)⟩

/-- A step from one bit period to the next (R176). -/
theorem FrameAt.nextBit {s u : State} {q r : Nat} (h : FrameAt s q r u) (hr : r + 1 = s.inst.tBit) (hn : q + 1 < 24 * s.inst.n)
    (hq : u.input.rst = false) : ∃ t, step u = .next t ∧ FrameAt s (q + 1) 0 t := by
  have hlt := highCycles_lt s.inst (s.frameBit q)
  have hpos := highCycles_pos s.inst (s.frameBit (q + 1))
  have hl := h.low (by omega)
  have ht := h.tcnt
  have hbn := h.bitn
  have hb := h.bit
  have hp := h.ptr
  have hc := h.cnt
  have hnb := nbytes_le s.inst
  have hN : s.inst.nbytes = 3 * s.inst.n := rfl
  have hti : u.advance.inst.tBit = s.inst.tBit := congrArg Config.Params.tBit h.inst
  have hT : ¬ u.advance.tcnt.toNat + 1 < u.advance.inst.tBit := by rw [hti]; simp; omega
  rw [step_of_busy hq h.busy]
  by_cases h0 : u.bitn = 0
  · have h7 : q % 8 = 7 := by rw [h0] at hbn; simp at hbn; omega
    have hc1 : u.cnt ≠ 1 := by intro e; rw [e] at hc; simp at hc; omega
    have hs := succ_toNat (x := u.ptr) (by omega)
    have hc2 : (u.cnt - 1).toNat = u.cnt.toNat - 1 := by simp [BitVec.toNat_sub]; omega
    rw [sequencerStep_byte (s := u.advance) hl.1 hT h0 hc1 (by change u.ptr.toNat + 1 < u.inst.nbytes; rw [h.inst]; omega)]
    refine ⟨_, rfl, ?_⟩
    refine ⟨h.inst, h.buf, h.bufKey, h.dir, h.savedIe, h.ie, hq, hn, by omega, rfl, ?_, ?_, ?_, ?_, fun _ => ⟨rfl, rfl⟩, fun _ => by omega⟩
    · change (u.ptr + 1).toNat = _; omega
    · change (u.ptr + 1).toNat + (u.cnt - 1).toNat = _; omega
    · change (7 : BitVec 3).toNat = _
      simp; omega
    · change u.loadByte (u.ptr.toNat + 1) = _
      rw [h.loadByte, hp, show (q + 1) % 8 = 0 by omega, show (q + 1) / 8 = q / 8 + 1 by omega]; simp
  · have h7 : q % 8 ≠ 7 := fun e => h0 (BitVec.eq_of_toNat_eq (by rw [hbn, e]; rfl))
    rw [sequencerStep_bit (s := u.advance) hl.1 hT h0]
    refine ⟨_, rfl, ?_⟩
    refine ⟨h.inst, h.buf, h.bufKey, h.dir, h.savedIe, h.ie, hq, hn, by omega, rfl, ?_, ?_, ?_, ?_, fun _ => ⟨rfl, rfl⟩, fun _ => by omega⟩
    · change u.ptr.toNat = _; omega
    · exact hc
    · change (u.bitn - 1).toNat = _
      simp [BitVec.toNat_sub]; omega
    · change u.shr <<< 1 = _
      rw [h.shr, show (q + 1) % 8 = q % 8 + 1 by omega, show (q + 1) / 8 = q / 8 by omega, BitVec.shiftLeft_add]

/-- The last step of a frame (R177). -/
theorem FrameAt.finish {s u : State} {q r : Nat} (h : FrameAt s q r u) (hr : r + 1 = s.inst.tBit) (hn : q + 1 = 24 * s.inst.n)
    (hq : u.input.rst = false) : step u = .next (sequencerEnd u.advance) := by
  have hlt := highCycles_lt s.inst (s.frameBit q)
  have hl := h.low (by omega)
  have ht := h.tcnt
  have hbn := h.bitn
  have hp := h.ptr
  have hc := h.cnt
  have hN : s.inst.nbytes = 3 * s.inst.n := rfl
  have hti : u.advance.inst.tBit = s.inst.tBit := congrArg Config.Params.tBit h.inst
  have hT : ¬ u.advance.tcnt.toNat + 1 < u.advance.inst.tBit := by rw [hti]; simp; omega
  rw [step_of_busy hq h.busy, sequencerStep_end (s := u.advance) hl.1 hT]
  · exact BitVec.eq_of_toNat_eq (by change u.bitn.toNat = _; rw [hbn]; simp; omega)
  · exact BitVec.eq_of_toNat_eq (by change u.cnt.toNat = _; simp; omega)

/-- The accept edge of a COMMIT starts the frame (R171). -/
theorem frameAt_start {s : State} (ha : s.accepts = true) (hd : decode s.input.cmd = .ok .commit) :
    ∃ t, step s = .next t ∧ FrameAt s 0 0 t := by
  have hpos := highCycles_pos s.inst (s.frameBit 0)
  have := nbytes_le s.inst
  have h1 := s.inst.n_pos
  have h2 := s.inst.t1h_lt
  rw [step_of_command ha hd, exec_commit, withController_next, controllerIe_of_busy_after rfl]
  have hr := ((accepts_iff s).mp ha).1
  refine ⟨_, rfl, ⟨rfl, rfl, rfl, rfl, rfl, rfl, hr, by omega, by omega, rfl, rfl, ?_, rfl, ?_, fun _ => ⟨rfl, rfl⟩, fun _ => by omega⟩⟩
  · change 0 + (BitVec.ofNat 8 s.inst.nbytes).toNat = _
    simp; omega
  · change s.loadByte 0 = _
    simp
/-! ### Runs -/
/-- The last edge of a run taken apart. -/
theorem runSteps_last (k : Nat) (s : State) : runSteps (k + 1) s = match runSteps k s with
    | .next t => step t
    | .fault f => .fault f
    | .refused r => .refused r := by
  induction k generalizing s with
  | zero => simp only [runSteps]; cases step s <;> rfl
  | succ k ih =>
    rw [runSteps]
    cases h : step s with
    | next t => simp only [ih t]; conv => rhs; rw [runSteps, h]
    | fault f => simp [runSteps, h]
    | refused f => simp [runSteps, h]

/-- A step uses up one sample of the inputs. -/
theorem step_inputs {s t : State} (h : step s = .next t) : t.inputs = s.inputs.tail := by
  rcases step_cases h with ⟨hr, rfl⟩ | ⟨hr, hb, hs⟩ | ⟨i, u, ha, -, hs, rfl⟩ | ⟨hr, hb, ha, rfl⟩
  · rcases controllerIe_cases s s.advance.takeReset with h | h <;> rw [h] <;> simp
  · rcases sequencerStep_cases (by simpa using hb) hs with ⟨_, rfl⟩ | ⟨_, _, rfl⟩ | ⟨_, _, _, rfl⟩ | ⟨_, _, _, _, _, rfl⟩ | ⟨_, _, _, _, rfl⟩
    · unfold sequencerHigh; split <;> simp
    all_goals simp [sequencerLow, sequencerEnd]
  · have : u.inputs = s.inputs.tail := by
      rcases exec_cases hs with ⟨rfl, rfl⟩ | ⟨rfl, rfl⟩ | ⟨-, -, hr, v, rfl⟩ | ⟨h1, h2, hr, idx, a, v, -, -, -, -, rfl⟩ <;> simp [State.stored]
    rcases controllerIe_cases s u with h | h <;> rw [h] <;> simpa using this
  · rcases controllerIe_cases s s.advance.noResponse with h | h <;> rw [h] <;> simp

/-- A run uses up one sample of the inputs an edge. -/
theorem runSteps_inputs {k : Nat} {s t : State} (h : runSteps k s = .next t) : t.inputs = s.inputs.drop k := by
  induction k generalizing s with
  | zero => simp [runSteps] at h; rw [h]; rfl
  | succ k ih =>
    rw [runSteps] at h
    cases hs : step s with
    | next u => rw [hs] at h; rw [ih h, step_inputs hs]; simp
    | fault f => rw [hs] at h; simp at h
    | refused f => rw [hs] at h; simp at h

/-- No reset at any of the coming edges means none at the edge after a run of them. -/
theorem noReset_at {s t : State} {k n : Nat} (h : s.noResetFor n = true) (hk : k < n) (hr : runSteps k s = .next t) :
    t.input.rst = false := by
  rw [State.input, runSteps_inputs hr]
  simp only [State.noResetFor, List.all_eq_true] at h
  cases hl : s.inputs.drop k with
  | nil => rfl
  | cons a l =>
    have : a ∈ s.inputs.take n := by
      have h0 : s.inputs[k]? = some a := by
        have := congrArg (·[0]?) hl
        simpa using this
      rw [List.mem_iff_getElem?]
      exact ⟨k, by rw [List.getElem?_take]; simp [hk, h0]⟩
    simpa using h a this

end Sys2Proof.Machine
end

