-- ==== Sys2Proof/Laws/PerInstr.lean ====
section
/-! SUPPORT. One lemma per command about its word: the word matches the row of the opcode table that has its OP byte, and that row
reads the command back (R72, R74). -/

namespace Sys2Proof.Laws.RowReadsBack

/-- The word of `i` matches a row of the opcode table with its OP byte, and that row reads `i` back. -/
def Statement (i : Instr) : Prop :=
  ∃ r ∈ opcodeTable, opOf r.pat = opOf (encode i) ∧ r.accepts (encode i) = true ∧ r.build (encode i) = i

theorem beginStrip_mask : encode .beginStrip &&& 0xFFFFFFFFFFFF = 0x010000000000 := by
  decide

theorem beginStrip : Statement .beginStrip := by
  refine ⟨⟨"BEGIN", 0xFFFFFFFFFFFF, 0x010000000000, fun _ => .beginStrip⟩, ?_, ?_, ?_, ?_⟩
  · simp [opcodeTable, rowsStrip]
  · simp only [encode, opOf_mkWord]; decide
  · rw [Row.accepts, beginStrip_mask, beq_self_eq_true]
  · rfl

theorem size_mask : encode .size &&& 0xFFFFFFFFFFFF = 0x020000000000 := by
  decide

theorem size : Statement .size := by
  refine ⟨⟨"SIZE", 0xFFFFFFFFFFFF, 0x020000000000, fun _ => .size⟩, ?_, ?_, ?_, ?_⟩
  · simp [opcodeTable, rowsStrip]
  · simp only [encode, opOf_mkWord]; decide
  · rw [Row.accepts, size_mask, beq_self_eq_true]
  · rfl

theorem commit_mask : encode .commit &&& 0xFFFFFFFFFFFF = 0x030000000000 := by
  decide

theorem commit : Statement .commit := by
  refine ⟨⟨"COMMIT", 0xFFFFFFFFFFFF, 0x030000000000, fun _ => .commit⟩, ?_, ?_, ?_, ?_⟩
  · simp [opcodeTable, rowsStrip]
  · simp only [encode, opOf_mkWord]; decide
  · rw [Row.accepts, commit_mask, beq_self_eq_true]
  · rfl

theorem setRgb_mask (idx r g b : Byte) : encode (.setRgb idx r g b) &&& 0xFF00FF000000 = 0x100000000000 := by
  rw [encode, mask_low3, mkWord_and, mkArg_and]
  simp only [byte_and_ff, byte_and_zero]
  decide

theorem setRgb (idx r g b : Byte) : Statement (.setRgb idx r g b) := by
  refine ⟨⟨"SET.RGB", 0xFF00FF000000, 0x100000000000, fun w => .setRgb (idxOf w) (byte2 (argOf w)) (byte1 (argOf w)) (byte0 (argOf w))⟩, ?_, ?_, ?_, ?_⟩
  · simp [opcodeTable, rowsSet]
  · simp only [encode, opOf_mkWord]; decide
  · rw [Row.accepts, setRgb_mask, beq_self_eq_true]
  · simp [encode]

theorem setBrgb_mask (idx k r g b : Byte) : encode (.setBrgb idx k r g b) &&& 0xFF0000000000 = 0x110000000000 := by
  rw [encode, mask_free, mkWord_and, mkArg_and]
  simp only [byte_and_ff, byte_and_zero]
  decide

theorem setBrgb (idx k r g b : Byte) : Statement (.setBrgb idx k r g b) := by
  refine ⟨⟨"SET.BRGB", 0xFF0000000000, 0x110000000000, fun w => .setBrgb (idxOf w) (byte3 (argOf w)) (byte2 (argOf w)) (byte1 (argOf w)) (byte0 (argOf w))⟩, ?_, ?_, ?_, ?_⟩
  · simp [opcodeTable, rowsSet]
  · simp only [encode, opOf_mkWord]; decide
  · rw [Row.accepts, setBrgb_mask, beq_self_eq_true]
  · simp [encode]

theorem setPacked_mask (idx : Byte) (w : Word32) : encode (.setPacked idx w) &&& 0xFF0000000000 = 0x120000000000 := by
  rw [encode, mask_free, ← mkArg_bytes w, mkWord_and, mkArg_and]
  simp only [byte_and_ff, byte_and_zero]
  decide

theorem setPacked (idx : Byte) (w : Word32) : Statement (.setPacked idx w) := by
  refine ⟨⟨"SET.PACKED", 0xFF0000000000, 0x120000000000, fun w => .setPacked (idxOf w) (argOf w)⟩, ?_, ?_, ?_, ?_⟩
  · simp [opcodeTable, rowsSet]
  · simp only [encode, opOf_mkWord]; decide
  · rw [Row.accepts, setPacked_mask, beq_self_eq_true]
  · simp [encode]

theorem setSeq0_mask (idx : Byte) : encode (.setSeq0 idx) &&& 0xFF00FFFFFFFF = 0x180000000000 := by
  rw [encode, mask_low0, ← mkArg_zero, mkWord_and, mkArg_and]
  simp only [byte_and_ff, byte_and_zero]
  decide

theorem setSeq0 (idx : Byte) : Statement (.setSeq0 idx) := by
  refine ⟨⟨"SET.SEQ0", 0xFF00FFFFFFFF, 0x180000000000, fun w => .setSeq0 (idxOf w)⟩, ?_, ?_, ?_, ?_⟩
  · simp [opcodeTable, rowsSet]
  · simp only [encode, opOf_mkWord]; decide
  · rw [Row.accepts, setSeq0_mask, beq_self_eq_true]
  · simp [encode]

theorem setSeq1_mask (idx v0 : Byte) : encode (.setSeq1 idx v0) &&& 0xFF00FFFFFF00 = 0x190000000000 := by
  rw [encode, mask_low1, mkWord_and, mkArg_and]
  simp only [byte_and_ff, byte_and_zero]
  decide

theorem setSeq1 (idx v0 : Byte) : Statement (.setSeq1 idx v0) := by
  refine ⟨⟨"SET.SEQ1", 0xFF00FFFFFF00, 0x190000000000, fun w => .setSeq1 (idxOf w) (byte0 (argOf w))⟩, ?_, ?_, ?_, ?_⟩
  · simp [opcodeTable, rowsSet]
  · simp only [encode, opOf_mkWord]; decide
  · rw [Row.accepts, setSeq1_mask, beq_self_eq_true]
  · simp [encode]

theorem setSeq2_mask (idx v0 v1 : Byte) : encode (.setSeq2 idx v0 v1) &&& 0xFF00FFFF0000 = 0x1A0000000000 := by
  rw [encode, mask_low2, mkWord_and, mkArg_and]
  simp only [byte_and_ff, byte_and_zero]
  decide

theorem setSeq2 (idx v0 v1 : Byte) : Statement (.setSeq2 idx v0 v1) := by
  refine ⟨⟨"SET.SEQ2", 0xFF00FFFF0000, 0x1A0000000000, fun w => .setSeq2 (idxOf w) (byte1 (argOf w)) (byte0 (argOf w))⟩, ?_, ?_, ?_, ?_⟩
  · simp [opcodeTable, rowsSet]
  · simp only [encode, opOf_mkWord]; decide
  · rw [Row.accepts, setSeq2_mask, beq_self_eq_true]
  · simp [encode]

theorem setSeq3_mask (idx v0 v1 v2 : Byte) : encode (.setSeq3 idx v0 v1 v2) &&& 0xFF00FF000000 = 0x1B0000000000 := by
  rw [encode, mask_low3, mkWord_and, mkArg_and]
  simp only [byte_and_ff, byte_and_zero]
  decide

theorem setSeq3 (idx v0 v1 v2 : Byte) : Statement (.setSeq3 idx v0 v1 v2) := by
  refine ⟨⟨"SET.SEQ3", 0xFF00FF000000, 0x1B0000000000, fun w => .setSeq3 (idxOf w) (byte2 (argOf w)) (byte1 (argOf w)) (byte0 (argOf w))⟩, ?_, ?_, ?_, ?_⟩
  · simp [opcodeTable, rowsSet]
  · simp only [encode, opOf_mkWord]; decide
  · rw [Row.accepts, setSeq3_mask, beq_self_eq_true]
  · simp [encode]

theorem setSeq4_mask (idx v0 v1 v2 v3 : Byte) : encode (.setSeq4 idx v0 v1 v2 v3) &&& 0xFF0000000000 = 0x1C0000000000 := by
  rw [encode, mask_free, mkWord_and, mkArg_and]
  simp only [byte_and_ff, byte_and_zero]
  decide

theorem setSeq4 (idx v0 v1 v2 v3 : Byte) : Statement (.setSeq4 idx v0 v1 v2 v3) := by
  refine ⟨⟨"SET.SEQ4", 0xFF0000000000, 0x1C0000000000, fun w => .setSeq4 (idxOf w) (byte3 (argOf w)) (byte2 (argOf w)) (byte1 (argOf w)) (byte0 (argOf w))⟩, ?_, ?_, ?_, ?_⟩
  · simp [opcodeTable, rowsSet]
  · simp only [encode, opOf_mkWord]; decide
  · rw [Row.accepts, setSeq4_mask, beq_self_eq_true]
  · simp [encode]

theorem get_mask (idx : Byte) : encode (.get idx) &&& 0xFF00FFFFFFFF = 0x200000000000 := by
  rw [encode, mask_low0, ← mkArg_zero, mkWord_and, mkArg_and]
  simp only [byte_and_ff, byte_and_zero]
  decide

theorem get (idx : Byte) : Statement (.get idx) := by
  refine ⟨⟨"GET", 0xFF00FFFFFFFF, 0x200000000000, fun w => .get (idxOf w)⟩, ?_, ?_, ?_, ?_⟩
  · simp [opcodeTable, rowsGet]
  · simp only [encode, opOf_mkWord]; decide
  · rw [Row.accepts, get_mask, beq_self_eq_true]
  · simp [encode]

theorem getR_mask (idx : Byte) : encode (.getR idx) &&& 0xFF00FFFFFFFF = 0x210000000000 := by
  rw [encode, mask_low0, ← mkArg_zero, mkWord_and, mkArg_and]
  simp only [byte_and_ff, byte_and_zero]
  decide

theorem getR (idx : Byte) : Statement (.getR idx) := by
  refine ⟨⟨"GET.R", 0xFF00FFFFFFFF, 0x210000000000, fun w => .getR (idxOf w)⟩, ?_, ?_, ?_, ?_⟩
  · simp [opcodeTable, rowsGet]
  · simp only [encode, opOf_mkWord]; decide
  · rw [Row.accepts, getR_mask, beq_self_eq_true]
  · simp [encode]

theorem getG_mask (idx : Byte) : encode (.getG idx) &&& 0xFF00FFFFFFFF = 0x220000000000 := by
  rw [encode, mask_low0, ← mkArg_zero, mkWord_and, mkArg_and]
  simp only [byte_and_ff, byte_and_zero]
  decide

theorem getG (idx : Byte) : Statement (.getG idx) := by
  refine ⟨⟨"GET.G", 0xFF00FFFFFFFF, 0x220000000000, fun w => .getG (idxOf w)⟩, ?_, ?_, ?_, ?_⟩
  · simp [opcodeTable, rowsGet]
  · simp only [encode, opOf_mkWord]; decide
  · rw [Row.accepts, getG_mask, beq_self_eq_true]
  · simp [encode]

theorem getB_mask (idx : Byte) : encode (.getB idx) &&& 0xFF00FFFFFFFF = 0x230000000000 := by
  rw [encode, mask_low0, ← mkArg_zero, mkWord_and, mkArg_and]
  simp only [byte_and_ff, byte_and_zero]
  decide

theorem getB (idx : Byte) : Statement (.getB idx) := by
  refine ⟨⟨"GET.B", 0xFF00FFFFFFFF, 0x230000000000, fun w => .getB (idxOf w)⟩, ?_, ?_, ?_, ?_⟩
  · simp [opcodeTable, rowsGet]
  · simp only [encode, opOf_mkWord]; decide
  · rw [Row.accepts, getB_mask, beq_self_eq_true]
  · simp [encode]

theorem putR_mask (idx v : Byte) : encode (.putR idx v) &&& 0xFF00FFFFFF00 = 0x290000000000 := by
  rw [encode, mask_low1, mkWord_and, mkArg_and]
  simp only [byte_and_ff, byte_and_zero]
  decide

theorem putR (idx v : Byte) : Statement (.putR idx v) := by
  refine ⟨⟨"PUT.R", 0xFF00FFFFFF00, 0x290000000000, fun w => .putR (idxOf w) (byte0 (argOf w))⟩, ?_, ?_, ?_, ?_⟩
  · simp [opcodeTable, rowsEdit]
  · simp only [encode, opOf_mkWord]; decide
  · rw [Row.accepts, putR_mask, beq_self_eq_true]
  · simp [encode]

theorem putG_mask (idx v : Byte) : encode (.putG idx v) &&& 0xFF00FFFFFF00 = 0x2A0000000000 := by
  rw [encode, mask_low1, mkWord_and, mkArg_and]
  simp only [byte_and_ff, byte_and_zero]
  decide

theorem putG (idx v : Byte) : Statement (.putG idx v) := by
  refine ⟨⟨"PUT.G", 0xFF00FFFFFF00, 0x2A0000000000, fun w => .putG (idxOf w) (byte0 (argOf w))⟩, ?_, ?_, ?_, ?_⟩
  · simp [opcodeTable, rowsEdit]
  · simp only [encode, opOf_mkWord]; decide
  · rw [Row.accepts, putG_mask, beq_self_eq_true]
  · simp [encode]

theorem putB_mask (idx v : Byte) : encode (.putB idx v) &&& 0xFF00FFFFFF00 = 0x2B0000000000 := by
  rw [encode, mask_low1, mkWord_and, mkArg_and]
  simp only [byte_and_ff, byte_and_zero]
  decide

theorem putB (idx v : Byte) : Statement (.putB idx v) := by
  refine ⟨⟨"PUT.B", 0xFF00FFFFFF00, 0x2B0000000000, fun w => .putB (idxOf w) (byte0 (argOf w))⟩, ?_, ?_, ?_, ?_⟩
  · simp [opcodeTable, rowsEdit]
  · simp only [encode, opOf_mkWord]; decide
  · rw [Row.accepts, putB_mask, beq_self_eq_true]
  · simp [encode]

theorem dim_mask (idx k : Byte) : encode (.dim idx k) &&& 0xFF00FFFFFF00 = 0x300000000000 := by
  rw [encode, mask_low1, mkWord_and, mkArg_and]
  simp only [byte_and_ff, byte_and_zero]
  decide

theorem dim (idx k : Byte) : Statement (.dim idx k) := by
  refine ⟨⟨"DIM", 0xFF00FFFFFF00, 0x300000000000, fun w => .dim (idxOf w) (byte0 (argOf w))⟩, ?_, ?_, ?_, ?_⟩
  · simp [opcodeTable, rowsEdit]
  · simp only [encode, opOf_mkWord]; decide
  · rw [Row.accepts, dim_mask, beq_self_eq_true]
  · simp [encode]

theorem dimmer_mask (idx k : Byte) : encode (.dimmer idx k) &&& 0xFF00FFFFFF00 = 0x310000000000 := by
  rw [encode, mask_low1, mkWord_and, mkArg_and]
  simp only [byte_and_ff, byte_and_zero]
  decide

theorem dimmer (idx k : Byte) : Statement (.dimmer idx k) := by
  refine ⟨⟨"DIMMER", 0xFF00FFFFFF00, 0x310000000000, fun w => .dimmer (idxOf w) (byte0 (argOf w))⟩, ?_, ?_, ?_, ?_⟩
  · simp [opcodeTable, rowsEdit]
  · simp only [encode, opOf_mkWord]; decide
  · rw [Row.accepts, dimmer_mask, beq_self_eq_true]
  · simp [encode]

/-- Every command's word matches its row, and the row reads the command back. -/
theorem all (i : Instr) : Statement i := by
  cases i with
  | beginStrip => exact beginStrip
  | size => exact size
  | commit => exact commit
  | setRgb idx r g b => exact setRgb idx r g b
  | setBrgb idx k r g b => exact setBrgb idx k r g b
  | setPacked idx w => exact setPacked idx w
  | setSeq0 idx => exact setSeq0 idx
  | setSeq1 idx v0 => exact setSeq1 idx v0
  | setSeq2 idx v0 v1 => exact setSeq2 idx v0 v1
  | setSeq3 idx v0 v1 v2 => exact setSeq3 idx v0 v1 v2
  | setSeq4 idx v0 v1 v2 v3 => exact setSeq4 idx v0 v1 v2 v3
  | get idx => exact get idx
  | getR idx => exact getR idx
  | getG idx => exact getG idx
  | getB idx => exact getB idx
  | putR idx v => exact putR idx v
  | putG idx v => exact putG idx v
  | putB idx v => exact putB idx v
  | dim idx k => exact dim idx k
  | dimmer idx k => exact dimmer idx k

end Sys2Proof.Laws.RowReadsBack
end

