-- ==== Sys2Proof/Laws/Run.lean ====
section
/-! SUPPORT. One edge of a run (R15), said once for each thing the host can be doing, and that a place in a frame does not depend on
what the host drives. -/

namespace Sys2Proof.Machine

/-- A run that has ended stays so. -/
theorem runWords_of_ended {ws : List Turn} {s : State} (h : runEnded ws s = true) (k : Nat) :
    runWords k ws s = .ok (some s) := by
  cases k <;> simp [runWords, h]

/-- Without edges a run that has not ended has no end state. -/
theorem runWords_zero {ws : List Turn} {s : State} (h : runEnded ws s = false) : runWords 0 ws s = .ok none := by
  simp [runWords, h]

/-- One edge of a run that has not ended. -/
theorem runWords_of_step {ws ws' : List Turn} {s t : State} (h : runEnded ws s = false)
    (hs : hostStep ws s = .ok (ws', t)) (k : Nat) : runWords (k + 1) ws s = runWords k ws' t := by
  rw [runWords, if_neg (by simp [h]), hs]

/-- An edge at which the host presents nothing is no accept edge. -/
theorem holdNone_accepts (s : State) : s.holdNone.accepts = false := by
  simp [State.accepts, State.holdNone, State.input]

/-- The host presents nothing more. -/
theorem hostStep_nil {s t : State} (h : step s.holdNone = .next t) : hostStep [] s = .ok ([], t) := by
  simp only [hostStep, hostDrives, h, holdNone_accepts]
  rfl

/-- An idle edge before a word. -/
theorem hostStep_idle {n : Nat} {w : CmdWord} {rest : List Turn} {s t : State} (h : step s.holdNone = .next t) :
    hostStep (⟨n + 1, w⟩ :: rest) s = .ok (⟨n, w⟩ :: rest, t) := by
  simp only [hostStep, hostDrives, h, holdNone_accepts]
  rfl

/-- The accept edge of a word. -/
theorem hostStep_accept {w : CmdWord} {rest : List Turn} {s t : State} (ha : (s.hold w).accepts = true)
    (h : step (s.hold w) = .next t) : hostStep (⟨0, w⟩ :: rest) s = .ok (rest, t) := by
  simp only [hostStep, hostDrives, h, ha]
  rfl

/-- A word that is held and not yet accepted. -/
theorem hostStep_wait {w : CmdWord} {rest : List Turn} {s t : State} (ha : (s.hold w).accepts = false)
    (h : step (s.hold w) = .next t) : hostStep (⟨0, w⟩ :: rest) s = .ok (⟨0, w⟩ :: rest, t) := by
  simp only [hostStep, hostDrives, h, ha]
  rfl

/-- The reset edge of a run always answers a next state (R230). -/
theorem step_assertReset (s : State) :
    step s.assertReset = .next (controllerIe s.assertReset s.assertReset.advance.takeReset) := step_of_reset rfl

/-- A run is its words from the state its reset edge leaves. -/
theorem run_eq (fuel : Nat) (ws : List Turn) (s : State) :
    run fuel ws s = runWords fuel ws (controllerIe s.assertReset s.assertReset.advance.takeReset) := by
  rw [run, step_assertReset]

/-- A place in a frame does not depend on the inputs (R37). -/
theorem FrameAt.withInputs {s u : State} {q r : Nat} (h : FrameAt s q r u) (l : List EdgeInput) :
    FrameAt s q r { u with inputs := l } :=
  ⟨h.inst, h.buf, h.bufKey, h.dir, h.savedIe, h.ie, h.rstQ, h.bit, h.cycle, h.tcnt, h.ptr, h.cnt, h.bitn, h.shr, h.high, h.low⟩

end Sys2Proof.Machine
end

