-- ==== Sys2Proof/Tests/Slice0.lean ====
section
/-! SUPPORT. The model's own tests: well-formedness, decoding, one step of each command and of the sequencer, and for each statement
with hypotheses a state that meets them. Expected values are the worked examples of spec/95_test_vectors.md (its number beside each
test) or written out from the encoding tables of spec/30_encoding.md. -/

namespace Sys2Proof.Tests

open Sys2Proof.Machine

/-! ## Small states -/

/-- One LED, two LEDs, three LEDs, SLOW defaults. -/
def oneLed : Config.Params := Config.Params.slow 1 (by decide) (by decide)

def twoLeds : Config.Params := Config.Params.slow 2 (by decide) (by decide)

def threeLeds : Config.Params := Config.Params.slow 3 (by decide) (by decide)

/-- An idle block with the given buffer, ready for a command. -/
def idleWith (p : Config.Params) (buf : List Byte) : State :=
  { State.reset with inst := p, buf := Memory.writeBytes [] 0 buf, rstQ := false }

/-- The same, with a command word presented at the next edge. -/
def presenting (w : CmdWord) (s : State) : State := { s with inputs := [EdgeInput.present w] }

/-- The next state, if there is one. -/
def after : Host.Outcome State Fault Refusal → Option State
  | .next t => some t
  | .fault _ => none
  | .refused _ => none

/-- The refusal, if there is one. -/
def refusal : Host.Outcome State Fault Refusal → Option Refusal
  | .next _ => none
  | .fault _ => none
  | .refused r => some r

/-- One edge with a word presented: the bytes of the buffer and the response after it. -/
def edgeWith (w : CmdWord) (s : State) : Option (List Byte × Option Word32) :=
  (after (step (presenting w s))).map fun t => (t.buf.map Prod.snd, if t.rspValid then some t.rsp else none)

/-- The block in the frame of V-T4: `N = 1`, `BUF = [0x80, 0x00, 0x01]`, `IE = 1` before. -/
def inFrame (phase : Phase) (tcnt : Byte) (bitn : BitVec 3) (shr ptr cnt : Byte) : State :=
  { idleWith oneLed [0x80, 0x00, 0x01] with
    phase := phase, dout := phase == .high, tcnt := tcnt, bitn := bitn, shr := shr, ptr := ptr, cnt := cnt,
    savedIe := true, ie := false }

/-- A row of V-T4, in the order of its columns. -/
structure FrameRow where
  phase : Phase
  dout : Bool
  tcnt : Byte
  bitn : BitVec 3
  shr : Byte
  ptr : Byte
  cnt : Byte
  ie : Bool
  deriving DecidableEq, Repr

/-- The row of V-T4 a state shows. -/
def row (s : State) : FrameRow := ⟨s.phase, s.dout, s.tcnt, s.bitn, s.shr, s.ptr, s.cnt, s.ie⟩

/-! ## Well-formedness: the index check (R55, R75) -/

theorem test_wellFormed_index_below : WellFormed twoLeds (.setRgb 1 1 2 3) = true := by decide

theorem test_illFormed_set : WellFormed twoLeds (.setRgb 2 1 2 3) = false := by decide

theorem test_illFormed_get : WellFormed twoLeds (.get 2) = false := by decide

theorem test_illFormed_put : WellFormed twoLeds (.putB 255 0) = false := by decide

theorem test_illFormed_dim : WellFormed oneLed (.dimmer 1 0) = false := by decide

theorem test_wellFormed_strip : WellFormed oneLed .commit = true := by decide

/-! ## Decoding: V-D1, and the words of R71 and R72 for the rows V-D1 does not show -/

theorem test_decode_begin : decode 0x010000000000 = .ok .beginStrip := by decide

theorem test_decode_size : decode 0x020000000000 = .ok .size := by decide

theorem test_decode_commit : decode 0x030000000000 = .ok .commit := by decide

theorem test_decode_setRgb : decode 0x100000123456 = .ok (.setRgb 0 0x12 0x34 0x56) := by decide

theorem test_decode_setRgb_255 : decode 0x10FF00FFFFFF = .ok (.setRgb 255 0xFF 0xFF 0xFF) := by decide

theorem test_decode_setBrgb : decode 0x11058182C3E4 = .ok (.setBrgb 5 0x81 0x82 0xC3 0xE4) := by decide

theorem test_decode_setPacked : decode 0x120010FFFFFF = .ok (.setPacked 0 0x10FFFFFF) := by decide

theorem test_decode_setSeq0 : decode 0x180100000000 = .ok (.setSeq0 1) := by decide

theorem test_decode_setSeq1 : decode 0x19010000007F = .ok (.setSeq1 1 0x7F) := by decide

theorem test_decode_setSeq2 : decode 0x1A010000407F = .ok (.setSeq2 1 0x40 0x7F) := by decide

theorem test_decode_setSeq3 : decode 0x1B010020407F = .ok (.setSeq3 1 0x20 0x40 0x7F) := by decide

theorem test_decode_setSeq4 : decode 0x1C018020407F = .ok (.setSeq4 1 0x80 0x20 0x40 0x7F) := by decide

theorem test_decode_get : decode 0x200100000000 = .ok (.get 1) := by decide

theorem test_decode_getR : decode 0x210100000000 = .ok (.getR 1) := by decide

theorem test_decode_getG : decode 0x220200000000 = .ok (.getG 2) := by decide

theorem test_decode_getB : decode 0x230300000000 = .ok (.getB 3) := by decide

theorem test_decode_putR : decode 0x290000000012 = .ok (.putR 0 0x12) := by decide

theorem test_decode_putG : decode 0x2A0100000034 = .ok (.putG 1 0x34) := by decide

theorem test_decode_putB : decode 0x2B0200000056 = .ok (.putB 2 0x56) := by decide

theorem test_decode_dim : decode 0x3000000000FF = .ok (.dim 0 0xFF) := by decide

theorem test_decode_dimmer : decode 0x310100000040 = .ok (.dimmer 1 0x40) := by decide

/-- The reserved words of V-D1. -/
theorem test_decode_reserved :
    ([0x010100000000, 0x010000000001, 0x030500000000, 0x000000000000, 0xFFFFFFFFFFFF, 0x040000000000, 0x100001FF0000,
      0x130000000000, 0x180000000001, 0x190200000100, 0x1A0000010000, 0x1B0001000000, 0x1D0000000000, 0x200000000001,
      0x240000000000, 0x280000000012, 0x2900000001FF, 0x2C0000000000, 0x300000000100, 0x320000000000] : List CmdWord).all
      (fun w => match decode w with | .ok _ => false | .error _ => true) = true := by decide

/-- The encodings of R71, written out. -/
theorem test_encode_setSeq4 : encode (.setSeq4 1 0x80 0x20 0x40 0x7F) = 0x1C018020407F := by decide

theorem test_encode_putG : encode (.putG 1 0x34) = 0x2A0100000034 := by decide

/-- The table's bit numbering: bit 0 is the word's least significant bit. -/
theorem test_tableWord : decodeTableWord 48 0x310100000040 = some (.dimmer 1 0x40) := by decide

/-! ## Colour functions: V-C2 to V-C14 -/

/-- V-C2. -/
theorem test_scale1 :
    ([(255, 16, 15), (255, 128, 127), (255, 255, 254), (255, 254, 253), (255, 1, 0), (255, 2, 1), (255, 0, 255),
      (128, 128, 64), (128, 2, 1), (127, 2, 0), (200, 100, 78), (17, 15, 0), (16, 16, 1), (15, 16, 0), (3, 128, 1),
      (1, 128, 0), (1, 255, 0), (1, 0, 1), (0, 77, 0), (0, 0, 0)] : List (Byte × Byte × Byte)).all
      (fun c => scale1 c.1 c.2.1 == c.2.2) = true := by decide

/-- V-C6. -/
theorem test_mkPacked : mkPacked 0xFF0180FF = mkRGB 0 0x7F 0xFE := by decide

/-- V-C10, the two-byte and the four-byte form: green then blue; scaled by the first byte. -/
theorem test_mkSeq : wire (mkSeq (.s2 0x40 0x7F)) = [0x40, 0x00, 0x7F] ∧
    wire (mkSeq (.s4 0x80 0x20 0x40 0x7F)) = [0x20, 0x10, 0x3F] := by decide

/-- V-C12. -/
theorem test_dim_repeated : dim (dim (dim (mkRGB 255 255 255) 0x80) 0x80) 0x80 = mkRGB 31 31 31 := by decide

/-- V-C14. -/
theorem test_with : withRed (mkRGB 1 2 3) 9 = mkRGB 9 2 3 ∧ withGreen (mkRGB 1 2 3) 9 = mkRGB 1 9 3 ∧
    withBlue (mkRGB 1 2 3) 9 = mkRGB 1 2 9 := by decide

/-! ## The strip commands, one edge each: V-S1 to V-S20 -/

/-- V-S1. -/
theorem test_begin : edgeWith 0x010000000000 (idleWith twoLeds [0x11, 0x22, 0x33, 0x44, 0x55, 0x66]) =
    some ([0, 0, 0, 0, 0, 0], none) := by decide

theorem test_begin_dir : ((after (step (presenting 0x010000000000 (idleWith twoLeds [1, 2, 3, 4, 5, 6])))).map State.pad) =
    some (.driven false) := by decide

/-- V-S2. -/
theorem test_size : edgeWith 0x020000000000 (idleWith twoLeds [1, 2, 3, 4, 5, 6]) =
    some ([1, 2, 3, 4, 5, 6], some 0x00000002) := by decide

/-- V-S3. -/
theorem test_setRgb : edgeWith 0x100100123456 (idleWith twoLeds [0, 0, 0, 0, 0, 0]) =
    some ([0, 0, 0, 0x34, 0x12, 0x56], none) := by decide

/-- V-S4. -/
theorem test_setBrgb : edgeWith 0x110080C86432 (idleWith twoLeds [0, 0, 0, 0x34, 0x12, 0x56]) =
    some ([0x32, 0x64, 0x19, 0x34, 0x12, 0x56], none) := by decide

/-- V-S5. -/
theorem test_setPacked : edgeWith 0x120110FFFFFF (idleWith twoLeds [0x32, 0x64, 0x19, 0x34, 0x12, 0x56]) =
    some ([0x32, 0x64, 0x19, 0x0F, 0x0F, 0x0F], none) := by decide

/-- V-S6. -/
theorem test_setSeq0 : edgeWith 0x180100000000 (idleWith twoLeds [0x32, 0x64, 0x19, 0x0F, 0x0F, 0x0F]) =
    some ([0x32, 0x64, 0x19, 0, 0, 0], none) := by decide

/-- V-S7. -/
theorem test_setSeq1 : edgeWith 0x19010000007F (idleWith twoLeds [0x32, 0x64, 0x19, 0, 0, 0]) =
    some ([0x32, 0x64, 0x19, 0, 0, 0x7F], none) := by decide

/-- V-S8. -/
theorem test_setSeq2 : edgeWith 0x1A010000407F (idleWith twoLeds [0x32, 0x64, 0x19, 0, 0, 0x7F]) =
    some ([0x32, 0x64, 0x19, 0x40, 0, 0x7F], none) := by decide

/-- V-S9. -/
theorem test_setSeq3 : edgeWith 0x1B010020407F (idleWith twoLeds [0x32, 0x64, 0x19, 0x40, 0, 0x7F]) =
    some ([0x32, 0x64, 0x19, 0x40, 0x20, 0x7F], none) := by decide

/-- V-S10. -/
theorem test_setSeq4 : edgeWith 0x1C018020407F (idleWith twoLeds [0x32, 0x64, 0x19, 0x40, 0x20, 0x7F]) =
    some ([0x32, 0x64, 0x19, 0x20, 0x10, 0x3F], none) := by decide

/-- V-S11. -/
theorem test_get : edgeWith 0x200100000000 (idleWith twoLeds [0x32, 0x64, 0x19, 0x20, 0x10, 0x3F]) =
    some ([0x32, 0x64, 0x19, 0x20, 0x10, 0x3F], some 0x0010203F) := by decide

theorem test_getR : edgeWith 0x210100000000 (idleWith twoLeds [0x32, 0x64, 0x19, 0x20, 0x10, 0x3F]) =
    some ([0x32, 0x64, 0x19, 0x20, 0x10, 0x3F], some 0x00000010) := by decide

theorem test_getG : edgeWith 0x220100000000 (idleWith twoLeds [0x32, 0x64, 0x19, 0x20, 0x10, 0x3F]) =
    some ([0x32, 0x64, 0x19, 0x20, 0x10, 0x3F], some 0x00000020) := by decide

theorem test_getB : edgeWith 0x230100000000 (idleWith twoLeds [0x32, 0x64, 0x19, 0x20, 0x10, 0x3F]) =
    some ([0x32, 0x64, 0x19, 0x20, 0x10, 0x3F], some 0x0000003F) := by decide

/-- V-S12. -/
theorem test_index_refused : refusal (step (presenting 0x100200010203 (idleWith twoLeds [0, 0, 0, 0, 0, 0]))) =
    some (.indexOutOfRange "SET.RGB" 2) := by decide

/-- V-S20. -/
theorem test_get_refused : refusal (step (presenting 0x200200000000 (idleWith twoLeds [0, 0, 0, 0, 0, 0]))) =
    some (.indexOutOfRange "GET" 2) := by decide

/-- V-D1: 0x1D is no command. -/
theorem test_reserved_refused : refusal (step (presenting 0x1D0000000000 (idleWith twoLeds [0, 0, 0, 0, 0, 0]))) =
    some (.reservedWord 0x1D0000000000) := by decide

/-- V-S13. -/
theorem test_putR : edgeWith 0x290000000012 (idleWith twoLeds [0, 0, 0, 0, 0, 0]) =
    some ([0, 0x12, 0, 0, 0, 0], none) := by decide

theorem test_putG : edgeWith 0x2A0000000034 (idleWith twoLeds [0, 0x12, 0, 0, 0, 0]) =
    some ([0x34, 0x12, 0, 0, 0, 0], none) := by decide

theorem test_putB : edgeWith 0x2B0000000056 (idleWith twoLeds [0x34, 0x12, 0, 0, 0, 0]) =
    some ([0x34, 0x12, 0x56, 0, 0, 0], none) := by decide

/-- V-S14. -/
theorem test_dim_zero : edgeWith 0x300000000000 (idleWith twoLeds [0x64, 0xC8, 0x32, 0, 0, 0]) =
    some ([0x64, 0xC8, 0x32, 0, 0, 0], none) := by decide

theorem test_dimmer_zero : edgeWith 0x310000000000 (idleWith twoLeds [0x64, 0xC8, 0x32, 0, 0, 0]) =
    some ([0x64, 0xC8, 0x32, 0, 0, 0], some 0x00C86432) := by decide

/-- V-S15. -/
theorem test_dimmer : edgeWith 0x310000000040 (idleWith twoLeds [0x64, 0xC8, 0x32, 0, 0, 0]) =
    some ([0x64, 0xC8, 0x32, 0, 0, 0], some 0x0032190C) := by decide

/-- V-S17. -/
theorem test_dim : edgeWith 0x3000000000FF (idleWith twoLeds [0x32, 0x64, 0x19, 0, 0, 0]) =
    some ([0x31, 0x63, 0x18, 0, 0, 0], none) := by decide

/-! ## COMMIT and the sequencer: V-T4, V-I1, V-I2 -/

/-- V-T4, cycle 0. -/
theorem test_commit : (after (step (presenting 0x030000000000 { idleWith oneLed [0x80, 0x00, 0x01] with ie := true }))).map
    (fun t => (row t, t.savedIe)) = some (⟨.high, true, 0, 7, 0x80, 0, 3, false⟩, true) := by decide

/-- V-I2: an interrupt enable that was 0 is saved as 0. -/
theorem test_commit_ie_clear : (after (step (presenting 0x030000000000 (idleWith oneLed [0x80, 0x00, 0x01])))).map
    (fun t => (t.ie, t.savedIe)) = some (false, false) := by decide

/-- V-T4, cycle 6 to cycle 7. -/
theorem test_sequencer_fall : (after (step (inFrame .high 6 7 0x80 0 3))).map row =
    some ⟨.low, false, 7, 7, 0x80, 0, 3, false⟩ := by decide

/-- V-T4, cycle 9 to cycle 10. -/
theorem test_sequencer_shift : (after (step (inFrame .low 9 7 0x80 0 3))).map row =
    some ⟨.high, true, 0, 6, 0x00, 0, 3, false⟩ := by decide

/-- V-T4, cycle 159 to cycle 160. -/
theorem test_sequencer_load : (after (step (inFrame .low 9 0 0x00 1 2))).map row =
    some ⟨.high, true, 0, 7, 0x01, 2, 1, false⟩ := by decide

/-- V-T4, cycle 239 to cycle 240. -/
theorem test_sequencer_end : (after (step (inFrame .low 9 0 0x80 2 1))).map row =
    some ⟨.idle, false, 9, 0, 0x80, 2, 1, true⟩ := by decide

/-- V-T1: the pulses of one byte 0xA5. -/
theorem test_pulses : ((idleWith oneLed [0xA5, 0x00, 0x00]).pulses.take 8) =
    [(7, 3), (3, 7), (7, 3), (3, 7), (3, 7), (7, 3), (3, 7), (7, 3)] := by decide

/-- E10: the bits LED 1 of the chain takes are green, red, blue of the second colour. -/
theorem test_ledBits : (idleWith threeLeds [0x00, 0xFF, 0x00, 0xFF, 0x00, 0x00, 0x00, 0x00, 0xFF]).ledBits 1 =
    List.replicate 8 true ++ List.replicate 16 false := by decide

/-! ## Reset and the ports: V-R1, V-R3, V-T7 -/

/-- V-R1: `cmd_ready` is 0 after a reset edge and 1 after the first edge without one. -/
theorem test_reset_ready : State.reset.cmdReady = false ∧ (after (step State.reset)).map State.cmdReady = some true := by decide

/-- V-R3: a command presented with `rst` is not accepted. -/
theorem test_reset_wins : (after (step { idleWith oneLed [1, 2, 3] with
    inputs := [⟨true, true, 0x010000000000, none⟩] })).map (fun t => (t.dir, t.rspValid, t.cmdReady)) =
    some (false, false, false) := by decide

/-- V-T7: during a frame the port is not ready and a presented command waits. -/
theorem test_busy_ignores : (after (step (presenting 0x200000000000 (inFrame .low 8 7 0x80 0 3)))).map
    (fun t => (t.rspValid, t.cmdReady, t.tcnt)) = some (false, false, 9) := by decide

/-- R215, R217: the port `ie_clr` before the accept edge, `ie_set` before the last edge. -/
theorem test_ie_ports : (presenting 0x030000000000 (idleWith oneLed [1, 2, 3])).outPorts.ieClr = true ∧
    (inFrame .low 9 0 0x80 2 1).outPorts.ieSet = true ∧ (inFrame .low 8 0 0x80 2 1).outPorts.ieSet = false := by decide

/-! ## Runs: R15 with V-R1 and V-S2 -/

/-- The end state of a run, if it has one within the edges given: its edge number and response. -/
def runResult (fuel : Nat) (ws : List Turn) (s : State) : Option (Nat × Option Word32) :=
  match run fuel ws s with
  | .ok (some t) => some (t.edge, if t.rspValid then some t.rsp else none)
  | .ok none => none
  | .error _ => none

/-- After the reset edge (edge 1 here) a word held at once is accepted at the second edge from it (V-R1). -/
theorem test_run_no_gap : runResult 2 [⟨0, 0x020000000000⟩] (idleWith twoLeds []) = some (3, some 2) := by decide

/-- Two idle edges before the word put the accept edge one later; with one edge fewer the run has not ended. -/
theorem test_run_gap : runResult 3 [⟨2, 0x020000000000⟩] (idleWith twoLeds []) = some (4, some 2) ∧
    runResult 2 [⟨2, 0x020000000000⟩] (idleWith twoLeds []) = none := by decide

/-! ## Assembler lines: V-D2 and part 2.3 -/

/-- V-D2: `SET 2, BLUE`. -/
theorem test_asm_name : Asm.lineWord ['S', 'E', 'T', ' ', '2', ',', ' ', 'B', 'L', 'U', 'E'] = .ok (some 0x1002000000FF) := by decide

/-- V-S7's line, its braces as characters. -/
theorem test_asm_seq : Asm.lineWord (['S', 'E', 'T', '.', 'S', 'E', 'Q', ' ', '1', ',', Char.ofNat 0x7B] ++
    ['0', 'x', '7', 'F', Char.ofNat 0x7D]) = .ok (some 0x19010000007F) := by decide

/-- V-D2: `GET` is `GET 0`; with the response expected. -/
theorem test_asm_get : Asm.parseLine ['G', 'E', 'T', ' ', '-', '>', ' ', '5'] =
    .ok (.command (.get 0) (some 5)) := by decide

/-- R84: the response expected, on a line of its own. -/
theorem test_asm_program : Asm.program [] [['S', 'I', 'Z', 'E'], [';', 'N'], ['-', '>', ' ', '0', 'x', '3']] =
    .ok [(.size, some 3)] := by decide

/-! ## The table words of the host, as first command after reset -/

theorem test_fetch_size : (after (step (State.reset.withFetchWord 48 0x020000000000))).map (fun t => (t.rsp, t.rspValid)) =
    some (85, true) := by decide

theorem test_fetch_put : (after (step (State.reset.withFetchWord 48 0x290000000012))).map (fun t => t.loadByte 1) =
    some 0x12 := by decide

/-! ## Witnesses: for each statement with hypotheses, a state and operands that meet them all -/

/-- EncodeOfDecodeIsIdentity, SampleWordsDecode. -/
theorem witness_EncodeOfDecodeIsIdentity : decode 0x1CFFFFFFFFFF = .ok (.setSeq4 0xFF 0xFF 0xFF 0xFF 0xFF) := by decide

/-- RowsDecodeToTheirOperands: for each row a word that matches it, every free bit 1. -/
theorem witness_RowsDecodeToTheirOperands :
    (List.zip maskTable ([0x010000000000, 0x020000000000, 0x030000000000, 0x10FF00FFFFFF, 0x11FFFFFFFFFF, 0x12FFFFFFFFFF,
      0x18FF00000000, 0x19FF000000FF, 0x1AFF0000FFFF, 0x1BFF00FFFFFF, 0x1CFFFFFFFFFF, 0x20FF00000000, 0x21FF00000000,
      0x22FF00000000, 0x23FF00000000, 0x29FF000000FF, 0x2AFF000000FF, 0x2BFF000000FF, 0x30FF000000FF,
      0x31FF000000FF] : List CmdWord)).all (fun p => p.2 &&& p.1.1 == p.1.2) = true := by decide

/-- StepRunsTheDecodedCommand. -/
theorem witness_StepRunsTheDecodedCommand :
    let s := presenting 0x100100123456 (idleWith twoLeds [0, 0, 0, 0, 0, 0])
    s.input.rst = false ∧ s.input.cmdValid = true ∧ s.rstQ = false ∧ s.phase = .idle ∧
      decode s.input.cmd = .ok (.setRgb 1 0x12 0x34 0x56) := by decide

/-- A word that matches no row, by the rows' masks one after the other. -/
theorem noRow_of_all {w : CmdWord} (h : (maskTable.all fun p => !(w &&& p.1 == p.2)) = true) :
    ∀ p ∈ maskTable, w &&& p.1 ≠ p.2 := by
  intro p hp
  simpa using List.all_eq_true.mp h p hp

/-- ReservedWordIsRefused, StepsNeverFaultUnderTheInvariant: the last word below the first row, and one must-be-zero bit set. -/
theorem witness_ReservedWordIsRefused :
    let s := presenting 0x00FFFFFFFFFF (idleWith twoLeds [0, 0, 0, 0, 0, 0])
    let t := presenting 0x200180000000 (idleWith twoLeds [0, 0, 0, 0, 0, 0])
    (s.accepts = true ∧ s.Inv ∧ t.accepts = true ∧ t.Inv) ∧ (∀ p ∈ maskTable, s.input.cmd &&& p.1 ≠ p.2) ∧
      ∀ p ∈ maskTable, t.input.cmd &&& p.1 ≠ p.2 :=
  ⟨by decide, noRow_of_all (by decide), noRow_of_all (by decide)⟩

/-- ScalingIsFloorOfProduct and ColourLaws: the orders and the non-zero brightness at their bounds. -/
theorem witness_ColourLaws : (0 : Byte) ≤ 255 ∧ (1 : Byte) ≠ 0 ∧ (1 : Byte) ≤ 255 ∧ (255 : Byte) ≤ 255 := by decide

/-- SequenceFormsAreTrailingAligned: the boundary between four bytes and five. -/
theorem witness_SequenceForms : 4 < [(1 : Byte), 2, 3, 4, 5].length ∧ ¬ 4 < [(1 : Byte), 2, 3, 4].length := by decide

/-- BeginClearsAndConfigures: a state that meets the invariant, and the addresses where its clauses meet. -/
theorem witness_BeginClearsAndConfigures : (idleWith twoLeds [1, 2, 3, 4, 5, 6]).Inv ∧ (idleWith twoLeds []).dir = false ∧
    (idleWith twoLeds []).dout = false ∧
    0 < 3 * (idleWith twoLeds []).inst.n ∧ 5 < 3 * (idleWith twoLeds []).inst.n ∧ 3 * (idleWith twoLeds []).inst.n ≤ 6 := by decide

/-- The statements on a command with a valid index (SetRgb…, SetBrgb…, SetPacked…, SetSeq…, Get…, Put…, Dim…): the first index
and the last, on a strip of two and on the longest. -/
theorem witness_validIndex : (0 : Byte).toNat < (idleWith twoLeds []).inst.n ∧ (1 : Byte).toNat < (idleWith twoLeds []).inst.n ∧
    (0 : Byte).toNat < State.reset.inst.n ∧ (84 : Byte).toNat < State.reset.inst.n := by decide

/-- SetPackedStoresPackedColour: a zero top byte and the bytes around it. -/
theorem witness_SetPacked : (0x00FFFFFF : Word32).extractLsb' 24 8 = 0 ∧ (0x01000000 : Word32).extractLsb' 24 8 = 1 := by decide

/-- IndexOutOfRangeIsRefused: the first index that names no LED, and the last. -/
theorem witness_IndexOutOfRangeIsRefused : (Instr.setRgb 85 1 2 3).index? = some 85 ∧ State.reset.inst.n ≤ (85 : Byte).toNat ∧
    (Instr.dimmer 255 0).index? = some 255 ∧ State.reset.inst.n ≤ (255 : Byte).toNat := by decide

/-- EveryWellFormedCommandCompletes. -/
theorem witness_EveryWellFormedCommandCompletes : WellFormed State.reset.inst (.setPacked 84 0x80C86432) = true ∧
    WellFormed State.reset.inst .beginStrip = true := by decide

/-- OnlySixCommandsRespond, OnlyBeginAndCommitWriteControl, CommandsKeepOtherSlots: commands that answer a next state, one that
responds, one that stores, BEGIN and COMMIT. -/
theorem witness_commandsAnswer (s : State) (h : s = idleWith twoLeds [1, 2, 3, 4, 5, 6]) :
    (∃ t, exec .size s = .next t) ∧ (∃ t, exec (.putB 1 7) s = .next t) ∧ (∃ t, exec .beginStrip s = .next t) ∧
      (∃ t, exec .commit s = .next t) ∧ (Instr.putB 1 7).index? = some 1 := by
  subst h
  exact ⟨⟨_, rfl⟩, ⟨_, rfl⟩, ⟨_, rfl⟩, ⟨_, rfl⟩, rfl⟩

/-- SetThenGetRespondsColour: each form of literal, at the last index. -/
theorem witness_SetThenGetRespondsColour : setLiteral (.setPacked 84 0x80C86432) = some (84, mkRGB 100 50 25) ∧
    setLiteral (.setSeq2 84 0x40 0x7F) = some (84, mkRGB 0 0x40 0x7F) ∧ (84 : Byte).toNat < State.reset.inst.n := by decide

/-- PutsInAnyOrderEqualSetRgb: an order other than the written one. -/
theorem witness_PutsInAnyOrderEqualSetRgb :
    [Instr.putB 0 3, .putG 0 2, .putR 0 1].Perm [.putR 0 1, .putG 0 2, .putB 0 3] := by decide

/-- SequencerStepInHigh: the cycle before the pad falls and the one before that; FrameIgnoresCommandPort, BufferFixedDuringFrame. -/
theorem witness_SequencerStepInHigh :
    let s := inFrame .high 6 7 0x80 0 3
    let t := inFrame .high 5 7 0x80 0 3
    s.input.rst = false ∧ s.phase = .high ∧ s.Inv ∧ s.busy = true ∧ s.tcnt.toNat + 1 = s.inst.t1h ∧ t.phase = .high ∧ t.Inv ∧
      t.tcnt.toNat + 1 ≠ t.inst.t1h ∧ (inFrame .high 2 0 0x00 0 3).Inv := by decide

/-- SequencerStepInLow: the last cycle it covers. -/
theorem witness_SequencerStepInLow :
    let s := inFrame .low 8 7 0x80 0 3
    s.input.rst = false ∧ s.phase = .low ∧ s.tcnt.toNat + 1 < s.inst.tBit ∧ s.Inv := by decide

/-- SequencerStepToNextBit: a bit of the same byte, and the last step to a next byte. -/
theorem witness_SequencerStepToNextBit :
    let s := inFrame .low 9 1 0x80 0 3
    let t := inFrame .low 9 0 0x00 1 2
    s.input.rst = false ∧ s.phase = .low ∧ s.tcnt.toNat + 1 = s.inst.tBit ∧ s.bitn ≠ 0 ∧
      t.input.rst = false ∧ t.phase = .low ∧ t.tcnt.toNat + 1 = t.inst.tBit ∧ t.bitn = 0 ∧ t.cnt ≠ 1 ∧ t.Inv := by decide

/-- SequencerStepAtFrameEnd; the frame-end clauses of InterruptEnableFollowsPorts, with the saved enable 1 and 0. -/
theorem witness_SequencerStepAtFrameEnd :
    let s := inFrame .low 9 0 0x80 2 1
    s.input.rst = false ∧ s.phase = .low ∧ s.tcnt.toNat + 1 = s.inst.tBit ∧ s.bitn = 0 ∧ s.cnt = 1 ∧ s.Inv ∧
      s.ieSet = true ∧ { s with savedIe := false }.frameEnds = true ∧ { s with savedIe := false }.ieSet = false ∧
      (after (step s)).isSome = true ∧ (after (step { s with savedIe := false })).isSome = true := by decide

/-- CommitWaveformClosedForm, CommitTraceIsThePulseList; the accept-edge clause of InterruptEnableFollowsPorts. -/
theorem witness_CommitWaveformClosedForm :
    let s := presenting 0x030000000000 (idleWith oneLed [0x80, 0x00, 0x01])
    s.accepts = true ∧ decode s.input.cmd = .ok .commit ∧ s.noResetFor (24 * s.inst.n * s.inst.tBit + 1) = true ∧
      s.ieClr = true ∧ (after (step s)).isSome = true ∧ 239 < 24 * s.inst.n * s.inst.tBit := by decide

/-- CommitsRestoreInterruptEnable: a run of one edge and a response. -/
theorem witness_CommitsRestoreInterruptEnable :
    let s := presenting 0x020000000000 { idleWith oneLed [1, 2, 3] with ie := true }
    s.noResetFor 1 = true ∧ ((s.inputs.take 1).all fun i => i.ieWrite == none) = true ∧ s.phase = .idle ∧
      (after (runSteps 1 s)).map State.phase = some .idle := by decide

/-- ResetEdge: a reset edge while idle, and an edge without one after it. -/
theorem witness_ResetEdge :
    let s := { idleWith oneLed [1, 2, 3] with inputs := [⟨true, true, 0x010000000000, some true⟩] }
    s.input.rst = true ∧ s.phase = .idle ∧ (after (step s)).map (fun t => (t.input.rst, t.ie)) = some (false, true) ∧
      { inFrame .high 5 6 0 0 3 with inputs := [⟨true, false, 0, none⟩] }.input.rst = true := by decide

/-- QuietEdgeClearsResponseValid: no command, and a command in the cycle of a reset. -/
theorem witness_QuietEdgeClearsResponseValid :
    let s := idleWith oneLed [1, 2, 3]
    let t := presenting 0x020000000000 State.reset
    s.input.rst = false ∧ s.phase = .idle ∧ s.input.cmdValid = false ∧
      t.input.rst = false ∧ t.phase = .idle ∧ t.input.cmdValid = true ∧ t.rstQ = true := by decide

/-- PadIsDoutWhenConfigured: both values of `DIR`. -/
theorem witness_PadIsDoutWhenConfigured : { State.reset with dir := true }.dir = true ∧ State.reset.dir = false := by decide

/-- ParametersNeverChange, EveryStepKeepsTheInvariant, BufferFixedDuringFrame: a step of a frame that answers a next state. -/
theorem witness_EveryStepKeepsTheInvariant :
    let s := inFrame .low 9 0 0x00 1 2
    s.Inv ∧ s.busy = true ∧ s.input.rst = false ∧ (after (step s)).isSome = true := by decide

/-- DirectionStaysSet, ConfiguredUntilReset: a configured block with a defined buffer, idle and in a frame. -/
theorem witness_ConfiguredUntilReset :
    let s := presenting 0x100000010203 { idleWith oneLed [1, 2, 3] with dir := true }
    let t := { inFrame .low 9 0 0x80 2 1 with dir := true }
    s.Inv ∧ s.dir = true ∧ s.bufDefined = true ∧ s.input.rst = false ∧ (after (step s)).map State.phase = some .idle ∧
      t.Inv ∧ t.dir = true ∧ t.bufDefined = true ∧ t.input.rst = false ∧ (after (step t)).map State.phase = some .idle := by decide

/-- RunEndsWithItsFrame: an idle, ready block. -/
theorem witness_RunEndsWithItsFrame : (idleWith twoLeds []).phase = .idle ∧ (idleWith twoLeds []).rstQ = false ∧
    0 < 0 + 1 + 24 * (idleWith twoLeds []).inst.n * (idleWith twoLeds []).inst.tBit := by decide

/-- InterruptEnableFollowsPorts: each side of its equivalences has a state that meets it. -/
theorem witness_InterruptEnableFollowsPorts :
    (presenting 0x030000000000 (idleWith oneLed [1, 2, 3])).ieClr = true ∧
      (presenting 0x020000000000 (idleWith oneLed [1, 2, 3])).ieClr = false ∧
      (inFrame .low 9 0 0x80 2 1).frameEnds = true ∧ (inFrame .low 9 1 0x80 2 1).frameEnds = false ∧
      (inFrame .low 9 0 0x80 2 2).ieSet = false := by decide

/-- InvariantGivesTheSpecsFacts: idle, high, low. -/
theorem witness_InvariantGivesTheSpecsFacts : State.reset.Inv ∧ (inFrame .high 0 7 0x80 0 3).Inv ∧
    (inFrame .low 9 0 0x80 2 1).Inv := by decide

/-- StepsNeverFaultUnderTheInvariant: a refusal for an index. -/
theorem witness_StepsNeverFault :
    let s := presenting 0x200200000000 (idleWith twoLeds [0, 0, 0, 0, 0, 0])
    s.Inv ∧ refusal (step s) = some (.indexOutOfRange "GET" 2) := by decide

/-- HiddenRegistersAreUnobservable: an idle state that steps on, and one whose step is refused. -/
theorem witness_HiddenRegistersAreUnobservable :
    let s := presenting 0x030000000000 (idleWith oneLed [1, 2, 3])
    let t := presenting 0x200200000000 (idleWith twoLeds [0, 0, 0, 0, 0, 0])
    s.phase = .idle ∧ (after (step s)).isSome = true ∧ t.phase = .idle ∧ (refusal (step t)).isSome = true := by decide

/-- BuildAcceptsExactlyLegalParameters: the longest strip and the smallest recipe are built, one LED more and none are not. -/
theorem witness_Build :
    let built (n tBit t1h t0h : Nat) : Bool :=
      match Config.Params.build n 0 8 8 16 tBit t1h t0h with
      | .ok _ => true
      | .error _ => false
    built 85 3 2 1 = true ∧ built 1 255 254 1 = true ∧ built 86 3 2 1 = false ∧ built 0 3 2 1 = false ∧
      built 1 256 2 1 = false ∧ built 1 3 3 1 = false := by decide

/-- DefaultTimingInSeconds: the shortest strip and the longest. -/
theorem witness_DefaultTiming : 1 ≤ 1 ∧ 3 * 1 < 256 ∧ 1 ≤ 85 ∧ 3 * 85 < 256 := by decide

/-- AssemblerDefaultsAndNames: members of its lists. -/
theorem witness_Assembler : (['O', 'F', 'F'], ColorName.off) ∈ Asm.colorNames ∧
    Asm.Op.get ∈ [Asm.Op.get, .getR, .getG, .getB] ∧ Asm.Op.dimmer ∈ [Asm.Op.putR, .putG, .putB, .dim, .dimmer] := by decide

end Sys2Proof.Tests
end

section
/-! SUPPORT. What every clock edge does to the fields that no command writes: the parameters, the edge number, the samples of the
inputs and the remembered `rst` (R7, R11, R38). -/

namespace Sys2Proof.Machine

/-- `t` has the parameters, the edge number, the coming inputs and the remembered `rst` of `s`. -/
structure SameClock (s t : State) : Prop where
  inst : t.inst = s.inst
  edge : t.edge = s.edge
  inputs : t.inputs = s.inputs
  rstQ : t.rstQ = s.rstQ

theorem SameClock.trans {s t u : State} (h : SameClock s t) (h' : SameClock t u) : SameClock s u :=
  ⟨h'.inst.trans h.inst, h'.edge.trans h.edge, h'.inputs.trans h.inputs, h'.rstQ.trans h.rstQ⟩

theorem noResponse_sameClock (s : State) : SameClock s s.noResponse := ⟨rfl, rfl, rfl, rfl⟩

theorem takeReset_sameClock (s : State) : SameClock s s.takeReset := ⟨rfl, rfl, rfl, rfl⟩

theorem controllerIe_sameClock (s t : State) : SameClock t (controllerIe s t) := by
  rcases controllerIe_cases s t with h | h <;> rw [h] <;> exact ⟨rfl, rfl, rfl, rfl⟩

theorem sequencerStep_sameClock {s t : State} (hb : s.busy = true) (h : sequencerStep s = .next t) : SameClock s t := by
  rcases sequencerStep_cases hb h with ⟨-, rfl⟩ | ⟨-, -, rfl⟩ | ⟨-, -, -, rfl⟩ | ⟨-, -, -, -, -, rfl⟩ | ⟨-, -, -, -, rfl⟩
  · unfold sequencerHigh
    split <;> exact ⟨rfl, rfl, rfl, rfl⟩
  all_goals exact ⟨rfl, rfl, rfl, rfl⟩

theorem exec_sameClock {i : Instr} {s t : State} (h : exec i s = .next t) : SameClock s t := by
  rcases exec_cases h with ⟨-, rfl⟩ | ⟨-, rfl⟩ | ⟨-, -, -, v, rfl⟩ | ⟨-, -, -, idx, a, v, -, -, -, -, rfl⟩ <;>
    exact ⟨rfl, rfl, rfl, rfl⟩

/-- After the edge itself (`advance`) no kind of edge touches these fields. -/
theorem step_sameClock {s t : State} (h : step s = .next t) : SameClock s.advance t := by
  rcases step_cases h with ⟨-, rfl⟩ | ⟨-, hb, hs⟩ | ⟨i, u, -, -, hu, rfl⟩ | ⟨-, -, -, rfl⟩
  · exact (takeReset_sameClock s.advance).trans (controllerIe_sameClock s _)
  · exact sequencerStep_sameClock hb hs
  · exact (exec_sameClock hu).trans (controllerIe_sameClock s u)
  · exact (noResponse_sameClock s.advance).trans (controllerIe_sameClock s _)

/-- Settles O47: the fields are those of `advance`, whatever the edge does. -/
theorem parametersNeverChange : Obligations.ParametersNeverChange := by
  intro s t h
  obtain ⟨hinst, hedge, hinputs, hrstQ⟩ := step_sameClock h
  exact ⟨hinst, hedge, hinputs, hrstQ⟩

end Sys2Proof.Machine
end

section
/-! SUPPORT. The cycles of a frame counted from its accept edge (R180, R181): one number in place of bit period and cycle. -/

namespace Sys2Proof.Machine

/-- The state `u` stands in cycle `c` of the frame that a COMMIT accepted at the edge after `s` began. -/
def FrameCycle (s : State) (c : Nat) (u : State) : Prop :=
  ∃ q r, c = q * s.inst.tBit + r ∧ FrameAt s q r u

theorem FrameAt.frameCycle {s u : State} {q r : Nat} (h : FrameAt s q r u) : FrameCycle s (q * s.inst.tBit + r) u :=
  ⟨q, r, rfl, h⟩

theorem FrameCycle.withInputs {s u : State} {c : Nat} (h : FrameCycle s c u) (l : List EdgeInput) :
    FrameCycle s c { u with inputs := l } := by
  obtain ⟨q, r, hc, h⟩ := h
  exact ⟨q, r, hc, h.withInputs l⟩

theorem FrameCycle.busy {s u : State} {c : Nat} (h : FrameCycle s c u) : u.busy = true := by
  obtain ⟨q, r, -, h⟩ := h
  exact h.busy

theorem FrameCycle.loadByte {s u : State} {c : Nat} (h : FrameCycle s c u) (a : Nat) : u.loadByte a = s.loadByte a := by
  obtain ⟨q, r, -, h⟩ := h
  exact h.loadByte a

theorem FrameCycle.dir {s u : State} {c : Nat} (h : FrameCycle s c u) : u.dir = s.dir := by
  obtain ⟨q, r, -, h⟩ := h
  exact h.dir

/-- A frame has `24*N*TBIT` cycles (R181). -/
theorem FrameCycle.lt {s u : State} {c : Nat} (h : FrameCycle s c u) : c < 24 * s.inst.n * s.inst.tBit := by
  obtain ⟨q, r, rfl, h⟩ := h
  have hr := h.cycle
  calc q * s.inst.tBit + r < (q + 1) * s.inst.tBit := by rw [Nat.succ_mul]; omega
    _ ≤ 24 * s.inst.n * s.inst.tBit := Nat.mul_le_mul_right _ h.bit

/-- An edge inside a frame leads to its next cycle (R174 to R176). -/
theorem FrameCycle.next {s u : State} {c : Nat} (h : FrameCycle s c u) (hc : c + 1 < 24 * s.inst.n * s.inst.tBit)
    (hrst : u.input.rst = false) : ∃ t, step u = .next t ∧ FrameCycle s (c + 1) t := by
  obtain ⟨q, r, rfl, h⟩ := h
  have hr := h.cycle
  by_cases hin : r + 1 < s.inst.tBit
  · obtain ⟨t, ht, hf⟩ := h.next hin hrst
    exact ⟨t, ht, hf.frameCycle⟩
  · have hlast : r + 1 = s.inst.tBit := by omega
    have hsum : q * s.inst.tBit + r + 1 = (q + 1) * s.inst.tBit := by rw [Nat.succ_mul]; omega
    have hbit : q + 1 < 24 * s.inst.n := Nat.lt_of_mul_lt_mul_right (hsum ▸ hc)
    obtain ⟨t, ht, hf⟩ := h.nextBit hlast hbit hrst
    exact ⟨t, ht, q + 1, 0, hsum, hf⟩

/-- The last edge of a frame is R177's, and the pad is low before it. -/
theorem FrameCycle.finish {s u : State} {c : Nat} (h : FrameCycle s c u) (hc : c + 1 = 24 * s.inst.n * s.inst.tBit)
    (hrst : u.input.rst = false) : step u = .next (sequencerEnd u.advance) ∧ u.dout = false := by
  obtain ⟨q, r, rfl, h⟩ := h
  have hpos : 0 < s.inst.tBit := by have := h.cycle; omega
  have hlast : r + 1 = s.inst.tBit := by
    have hdvd : s.inst.tBit ∣ r + 1 := by
      rw [← Nat.dvd_add_right (Nat.dvd_mul_left s.inst.tBit q), ← Nat.add_assoc, hc]
      exact Nat.dvd_mul_left _ _
    exact Nat.le_antisymm h.cycle (Nat.le_of_dvd (Nat.succ_pos r) hdvd)
  have hbit : q + 1 = 24 * s.inst.n := by
    refine Nat.eq_of_mul_eq_mul_right hpos ?_
    rw [← hc, Nat.succ_mul]
    omega
  have hhigh := highCycles_lt s.inst (s.frameBit q)
  exact ⟨h.finish hlast hbit hrst, (h.low (by omega)).2⟩

end Sys2Proof.Machine
end

section
/-! SUPPORT. When a run ends (R15), counted in edges, and the run of one COMMIT: idle edges, the accept edge, the frame. -/

namespace Sys2Proof.Machine

/-- From `s`, with the words `ws` still to present, a run ends in `t` after exactly `m` edges. -/
def RunEndsAt (ws : List Turn) (s : State) (m : Nat) (t : State) : Prop :=
  runWords m ws s = .ok (some t) ∧ ∀ k < m, runWords k ws s = .ok none

theorem RunEndsAt.now {ws : List Turn} {s : State} (h : runEnded ws s = true) : RunEndsAt ws s 0 s :=
  ⟨runWords_of_ended h 0, fun _ hk => absurd hk (Nat.not_lt_zero _)⟩

/-- One edge more before the end. -/
theorem RunEndsAt.after_edge {ws ws' : List Turn} {s u t : State} {m : Nat} (he : runEnded ws s = false)
    (hs : hostStep ws s = .ok (ws', u)) (h : RunEndsAt ws' u m t) : RunEndsAt ws s (m + 1) t := by
  obtain ⟨hend, hbefore⟩ := h
  refine ⟨(runWords_of_step he hs m).trans hend, fun k hk => ?_⟩
  cases k with
  | zero => exact runWords_zero he
  | succ k => exact (runWords_of_step he hs k).trans (hbefore k (by omega))

/-- What is left of `s` in the state `t`, `m` edges later, at the end of a run whose last word was a COMMIT. -/
structure AfterFrame (s : State) (m : Nat) (t : State) : Prop where
  edge : t.edge = s.edge + m
  phase : t.phase = .idle
  dout : t.dout = false
  bytes : BytesKept s t
  dir : t.dir = s.dir

/-- One edge more before, which leaves the buffer and the direction alone. -/
theorem AfterFrame.after_edge {s u t : State} {m : Nat} (hs : u.edge = s.edge + 1) (hb : BytesKept s u) (hd : u.dir = s.dir)
    (h : AfterFrame u m t) : AfterFrame s (m + 1) t where
  edge := by rw [h.edge, hs]; omega
  phase := h.phase
  dout := h.dout
  bytes a := (h.bytes a).trans (hb a)
  dir := h.dir.trans hd

/-- While a frame runs and no word is left, the run ends with the frame's last cycle. -/
theorem runEndsAt_of_frameCycle (s : State) (m : Nat) {c : Nat} {u : State} (h : FrameCycle s c u)
    (hm : c + m = 24 * s.inst.n * s.inst.tBit) : ∃ t, RunEndsAt [] u m t ∧ AfterFrame u m t := by
  induction m generalizing c u with
  | zero => exact absurd h.lt (by omega)
  | succ m ih =>
    have hrun : runEnded [] u = false := by simp [runEnded, h.busy]
    have hu : FrameCycle s c u.holdNone := h.withInputs _
    by_cases hc : c + 1 < 24 * s.inst.n * s.inst.tBit
    · obtain ⟨v, hv, hf⟩ := hu.next hc rfl
      obtain ⟨t, ht, hkept⟩ := ih hf (by omega)
      exact ⟨t, ht.after_edge hrun (hostStep_nil hv), hkept.after_edge (step_sameClock hv).edge
        (fun a => (hf.loadByte a).trans (h.loadByte a).symm) (hf.dir.trans h.dir.symm)⟩
    · obtain ⟨hv, hlow⟩ := hu.finish (by have := h.lt; omega) rfl
      obtain rfl : m = 0 := by have := h.lt; omega
      exact ⟨_, (RunEndsAt.now rfl).after_edge hrun (hostStep_nil hv), rfl, rfl, hlow, fun _ => rfl, rfl⟩

/-- The word of a COMMIT (R71). -/
theorem decode_commitWord : decode 0x030000000000 = .ok .commit := by decide

/-- An idle edge of a run, from an idle block (R221): only the controller may write `IE`. -/
theorem step_holdNone_of_idle {s : State} (h : s.phase = .idle) :
    step s.holdNone = .next (s.holdNone.advance.noResponse.writeIe s.holdNone.input.ieWrite) := by
  have hb : s.holdNone.busy = false := (idle_iff _).mpr h
  rw [step_of_quiet rfl hb (holdNone_accepts s), controllerIe_of_idle hb (t := s.holdNone.advance.noResponse) hb]

/-- An idle, ready block accepts the word the host holds (R37). -/
theorem hold_accepts {s : State} (h : s.phase = .idle) (hq : s.rstQ = false) (w : CmdWord) : (s.hold w).accepts = true :=
  (accepts_iff _).mpr ⟨rfl, rfl, hq, (idle_iff _).mpr h⟩

/-- A COMMIT held at an idle, ready block is accepted at once, and the run ends with its frame. -/
theorem runEndsAt_of_hold_commit {s : State} (h : s.phase = .idle) (hq : s.rstQ = false) :
    ∃ t, RunEndsAt [⟨0, 0x030000000000⟩] s (24 * s.inst.n * s.inst.tBit + 1) t ∧
      AfterFrame s (24 * s.inst.n * s.inst.tBit + 1) t := by
  have ha := hold_accepts h hq 0x030000000000
  obtain ⟨u, hu, hf⟩ := frameAt_start ha decode_commitWord
  obtain ⟨t, ht, hkept⟩ := runEndsAt_of_frameCycle _ (24 * s.inst.n * s.inst.tBit) hf.frameCycle (by simp [State.hold])
  exact ⟨t, ht.after_edge rfl (hostStep_accept ha hu),
    hkept.after_edge (step_sameClock hu).edge (fun a => hf.loadByte a) hf.dir⟩

/-- The idle edges before the COMMIT leave the block idle, ready and as it was. -/
theorem runEndsAt_of_commit (gap : Nat) {s : State} (h : s.phase = .idle) (hq : s.rstQ = false) :
    ∃ t, RunEndsAt [⟨gap, 0x030000000000⟩] s (24 * s.inst.n * s.inst.tBit + 1 + gap) t ∧
      AfterFrame s (24 * s.inst.n * s.inst.tBit + 1 + gap) t := by
  induction gap generalizing s with
  | zero => exact runEndsAt_of_hold_commit h hq
  | succ gap ih =>
    have hu := step_holdNone_of_idle h
    obtain ⟨t, ht, hkept⟩ := ih (s := s.holdNone.advance.noResponse.writeIe s.holdNone.input.ieWrite) h rfl
    exact ⟨t, ht.after_edge rfl (hostStep_idle hu), hkept.after_edge (step_sameClock hu).edge (fun _ => rfl) rfl⟩

/-- Settles O59, by induction on the idle edges and then on the edges left in the frame. -/
theorem runEndsWithItsFrame : Obligations.RunEndsWithItsFrame := by
  intro s gap h hq
  obtain ⟨t, ⟨hend, hbefore⟩, hkept⟩ := runEndsAt_of_commit gap h hq
  have hlen : 24 * s.inst.n * s.inst.tBit + 1 + gap = gap + 1 + 24 * s.inst.n * s.inst.tBit := by omega
  rw [hlen] at hend hbefore
  exact ⟨⟨t, hend, by rw [hkept.edge]; omega, hkept.phase, hkept.dout, hkept.bytes, hkept.dir⟩, hbefore⟩

end Sys2Proof.Machine
end

section
/-! SUPPORT. Building from parameters (R7, R237) and its times in seconds (R8, R189). -/

namespace Sys2Proof.Config.Params

/-- A clock is one of the two supported rates (R7). -/
theorem fClk_eq_or (p : Params) : p.fClk = p.fSlow ∨ p.fClk = p.fFast := by
  unfold fClk
  cases p.clkSel with
  | slow => exact .inl rfl
  | fast => exact .inr rfl

section Build

variable {n pin hz fSlow fFast tBit t1h t0h : Nat}

/-- A built record has what it was built from. -/
theorem build_fields {p : Params} (h : build n pin hz fSlow fFast tBit t1h t0h = .ok p) :
    (p.n = n ∧ p.pin = pin ∧ p.fClk = hz ∧ p.tBit = tBit ∧ p.t1h = t1h ∧ p.t0h = t0h) ∧
      p.fSlow = fSlow ∧ p.fFast = fFast := by
  unfold build at h
  split at h
  case isFalse => simp at h
  case isTrue hn =>
    split at h
    case isFalse => simp at h
    case isTrue hr =>
      dsimp only at h
      split at h
      case isTrue hs =>
        obtain rfl := Except.ok.inj h
        exact ⟨⟨rfl, rfl, hs.symm, rfl, rfl, rfl⟩, rfl, rfl⟩
      case isFalse =>
        split at h
        case isTrue hf =>
          obtain rfl := Except.ok.inj h
          exact ⟨⟨rfl, rfl, hf.symm, rfl, rfl, rfl⟩, rfl, rfl⟩
        case isFalse => simp at h

/-- Legal parameters and a supported clock are built. -/
theorem build_of_legal (hn : 1 ≤ n ∧ 3 * n < 256) (hr : 1 ≤ t0h ∧ t0h < t1h ∧ t1h < tBit ∧ tBit ≤ 255)
    (hclk : hz = fSlow ∨ hz = fFast) : ∃ p, build n pin hz fSlow fFast tBit t1h t0h = .ok p := by
  unfold build
  rw [dif_pos hn, dif_pos hr]
  dsimp only
  split
  case isTrue => exact ⟨_, rfl⟩
  case isFalse hs => exact ⟨_, if_pos (hclk.resolve_left hs)⟩

end Build

/-- Settles O56: a record of the type is legal by its own fields, and `build` makes one from every legal choice. -/
theorem buildAcceptsExactlyLegalParameters : Obligations.BuildAcceptsExactlyLegalParameters := by
  intro n pin hz fSlow fFast tBit t1h t0h
  refine ⟨⟨fun ⟨p, hp⟩ => ?_, fun ⟨h1, h2, h3, h4, h5, h6, hclk⟩ => build_of_legal ⟨h1, h2⟩ ⟨h3, h4, h5, h6⟩ hclk⟩,
    fun p hp => (build_fields hp).1⟩
  obtain ⟨⟨rfl, -, rfl, rfl, rfl, rfl⟩, rfl, rfl⟩ := build_fields hp
  exact ⟨p.n_pos, p.n_fits, p.t0h_pos, p.t0h_lt, p.t1h_lt, p.tBit_le, p.fClk_eq_or⟩

/-- A frame lasts 24 bit periods for each LED (R181, R189). -/
theorem seconds_frameCycles (p : Params) : p.seconds p.frameCycles = 24 * p.n * p.seconds p.tBit := by
  simp only [seconds, frameCycles, Nat.cast_mul, Nat.cast_ofNat]
  rw [mul_div_assoc]

/-- `c` cycles with the SLOW defaults, at 8 MHz. -/
theorem seconds_slow {n : Nat} (h : 1 ≤ n) (h' : 3 * n < 256) (c : Nat) : (slow n h h').seconds c = c / 8000000 := by
  simp [seconds, fClk, slow, defaultFSlow]

/-- `c` cycles with the FAST defaults, at 16 MHz. -/
theorem seconds_fast {n : Nat} (h : 1 ≤ n) (h' : 3 * n < 256) (c : Nat) : (fast n h h').seconds c = c / 16000000 := by
  simp [seconds, fClk, fast, defaultFFast]

/-- Settles O57: 7, 3 and 10 cycles at 8 MHz and 14, 6 and 20 at 16 MHz; a frame is 24 bit periods for each LED. -/
theorem defaultTimingInSeconds : Obligations.DefaultTimingInSeconds := by
  intro n h h' p hp
  rw [seconds_frameCycles]
  rcases List.mem_pair.mp hp with rfl | rfl
  · simp only [seconds_slow]
    dsimp only [slow]
    exact ⟨by norm_num, by norm_num, by norm_num, by push_cast; ring⟩
  · simp only [seconds_fast]
    dsimp only [fast]
    exact ⟨by norm_num, by norm_num, by norm_num, by push_cast; ring⟩

end Sys2Proof.Config.Params
end

section
/-! SUPPORT. The invariant (R42) along the edges of the block: what it says in each phase, that every kind of edge keeps it, and what
it says in the spec's own words. -/

namespace Sys2Proof.Machine

/-! ### The invariant, phase by phase -/

/-- While idle the frame's clauses are void. -/
theorem inv_iff_of_idle {s : State} (hp : s.phase = .idle) (hq : s.rstQ = false) :
    s.Inv ↔ s.bufInv = true ∧ s.dout = false := by
  have hb : s.busy = false := (idle_iff s).mpr hp
  rw [inv_iff, bufInv_iff]
  simp [hp, hq, hb]

theorem inv_of_idle {s : State} (hp : s.phase = .idle) (hq : s.rstQ = false)
    (h : s.bufInv = true ∧ s.dout = false) : s.Inv := (inv_iff_of_idle hp hq).mpr h

/-- What a frame has fixed between two edges, its phase apart (R42(c)): the bytes sent and left, and the interrupt enable. -/
def State.midFrame (s : State) : Prop :=
  s.bufInv = true ∧ s.ptr.toNat + s.cnt.toNat = s.inst.nbytes ∧ 1 ≤ s.cnt.toNat ∧ s.ie = false

/-- In HIGH the count is below the high time, so below the bit period (R172). -/
theorem inv_iff_of_high {s : State} (hp : s.phase = .high) (hq : s.rstQ = false) :
    s.Inv ↔ s.midFrame ∧ s.dout = true ∧ s.tcnt.toNat < s.th := by
  have hb : s.busy = true := (busy_iff s).mpr (.inl hp)
  have hlt : s.th < s.inst.tBit := highCycles_lt s.inst _
  rw [inv_iff, ← bufInv_iff, State.midFrame]
  simp only [hp, hq, hb, iff_true, forall_const, Bool.false_eq_true, false_imp_iff, and_true]
  constructor
  · rintro ⟨hbuf, hdout, ⟨hsum, hcnt, -, hie⟩, hth⟩
    exact ⟨⟨hbuf, hsum, hcnt, hie⟩, hdout, hth⟩
  · rintro ⟨⟨hbuf, hsum, hcnt, hie⟩, hdout, hth⟩
    exact ⟨hbuf, hdout, ⟨hsum, hcnt, by omega, hie⟩, hth⟩

theorem inv_of_high {s : State} (hp : s.phase = .high) (hq : s.rstQ = false)
    (h : s.midFrame ∧ s.dout = true ∧ s.tcnt.toNat < s.th) : s.Inv := (inv_iff_of_high hp hq).mpr h

/-- In LOW the count is below the bit period. -/
theorem inv_iff_of_low {s : State} (hp : s.phase = .low) (hq : s.rstQ = false) :
    s.Inv ↔ s.midFrame ∧ s.dout = false ∧ s.tcnt.toNat < s.inst.tBit := by
  have hb : s.busy = true := (busy_iff s).mpr (.inr hp)
  rw [inv_iff, ← bufInv_iff, State.midFrame]
  simp only [hp, hq, hb, reduceCtorEq, iff_false, Bool.not_eq_true, forall_const, Bool.false_eq_true, false_imp_iff, and_true]
  constructor
  · rintro ⟨hbuf, hdout, hsum, hcnt, htcnt, hie⟩
    exact ⟨⟨hbuf, hsum, hcnt, hie⟩, hdout, htcnt⟩
  · rintro ⟨⟨hbuf, hsum, hcnt, hie⟩, hdout, htcnt⟩
    exact ⟨hbuf, hdout, hsum, hcnt, htcnt, hie⟩

theorem inv_of_low {s : State} (hp : s.phase = .low) (hq : s.rstQ = false)
    (h : s.midFrame ∧ s.dout = false ∧ s.tcnt.toNat < s.inst.tBit) : s.Inv := (inv_iff_of_low hp hq).mpr h

/-! ### The edges -/

/-- A reset edge meets the invariant whatever the state before it (R41, R230). -/
theorem inv_takeReset (s : State) : s.takeReset.Inv := by
  have hb : s.takeReset.busy = false := rfl
  rw [inv_iff]
  exact ⟨⟨rfl, rfl⟩, by simp, by simp [hb], by simp, by simp [hb]⟩

/-- An edge with nothing to do. -/
theorem inv_noResponse {s : State} (h : s.Inv) : s.noResponse.Inv := by
  rw [inv_iff] at h ⊢
  obtain ⟨hbuf, hdout, hframe, hhigh, hreset⟩ := h
  refine ⟨hbuf, hdout, hframe, hhigh, fun hq => ?_⟩
  obtain ⟨hdir, hbusy, -⟩ := hreset hq
  exact ⟨hdir, hbusy, rfl⟩

/-- A step in HIGH (R174): the fall ends the high time, and any other edge is before its end. -/
theorem inv_sequencerHigh {s : State} (h : s.Inv) (hp : s.phase = .high) (hq : s.rstQ = false) : (sequencerHigh s).Inv := by
  obtain ⟨hmid, hdout, hth⟩ := (inv_iff_of_high hp hq).mp h
  have hlt : s.th < s.inst.tBit := highCycles_lt s.inst _
  have hle := s.inst.tBit_le
  have hs : (s.tcnt + 1).toNat = s.tcnt.toNat + 1 := succ_toNat (by omega)
  by_cases he : s.tcnt.toNat + 1 = s.th
  · rw [seqHigh_of_eq he]
    refine inv_of_low rfl hq ⟨hmid, rfl, ?_⟩
    change (s.tcnt + 1).toNat < s.inst.tBit
    omega
  · rw [seqHigh_of_ne he]
    refine inv_of_high hp hq ⟨hmid, hdout, ?_⟩
    change (s.tcnt + 1).toNat < s.th
    omega

/-- A step in LOW inside a bit period (R175). -/
theorem inv_sequencerLow {s : State} (h : s.Inv) (hp : s.phase = .low) (hq : s.rstQ = false)
    (ht : s.tcnt.toNat + 1 < s.inst.tBit) : (sequencerLow s).Inv := by
  obtain ⟨hmid, hdout, -⟩ := (inv_iff_of_low hp hq).mp h
  have hle := s.inst.tBit_le
  have hs : (s.tcnt + 1).toNat = s.tcnt.toNat + 1 := succ_toNat (by omega)
  refine inv_of_low hp hq ⟨hmid, hdout, ?_⟩
  change (s.tcnt + 1).toNat < s.inst.tBit
  omega

/-- The rising edge of a symbol (R176): every symbol is high for a cycle at least. -/
theorem inv_rise {s : State} (h : s.midFrame) (hq : s.rstQ = false) : s.rise.noResponse.Inv :=
  inv_of_high rfl hq ⟨h, rfl, highCycles_pos s.inst _⟩

/-- A byte is passed from those left to those sent (R176), while more than one is left. -/
theorem midFrame_nextByte {s : State} (b : Byte) (h : s.midFrame) (hc : s.cnt ≠ 1) : (s.nextByte b).midFrame := by
  obtain ⟨hbuf, hsum, hcnt, hie⟩ := h
  have hne : s.cnt.toNat ≠ 1 := fun e => hc (BitVec.eq_of_toNat_eq e)
  have hnb := nbytes_le s.inst
  have hptr : (s.ptr + 1).toNat = s.ptr.toNat + 1 := succ_toNat (by omega)
  have hcnt' : (s.cnt - 1).toNat = s.cnt.toNat - 1 := by
    simp [BitVec.toNat_sub]
    omega
  refine ⟨hbuf, ?_, ?_, hie⟩
  · change (s.ptr + 1).toNat + (s.cnt - 1).toNat = s.inst.nbytes
    omega
  · change 1 ≤ (s.cnt - 1).toNat
    omega

/-- Every sequencer step keeps the invariant (R173 to R177). -/
theorem inv_sequencerStep {s t : State} (h : s.Inv) (hb : s.busy = true) (hq : s.rstQ = false)
    (hs : sequencerStep s = .next t) : t.Inv := by
  rcases sequencerStep_cases hb hs with ⟨hp, rfl⟩ | ⟨hp, ht, rfl⟩ | ⟨hp, -, -, rfl⟩ | ⟨hp, -, -, hc, -, rfl⟩ | ⟨hp, -, -, -, rfl⟩
  · exact inv_sequencerHigh h hp hq
  · exact inv_sequencerLow h hp hq ht
  · obtain ⟨hmid, -, -⟩ := (inv_iff_of_low hp hq).mp h
    exact inv_rise (s := s.nextBit) hmid hq
  · obtain ⟨hmid, -, -⟩ := (inv_iff_of_low hp hq).mp h
    exact inv_rise (midFrame_nextByte _ hmid hc) hq
  · obtain ⟨⟨hbuf, -⟩, hdout, -⟩ := (inv_iff_of_low hp hq).mp h
    exact inv_of_idle rfl hq ⟨hbuf, hdout⟩

/-- A COMMIT starts a frame with every byte left, in the first cycle of a symbol (R171). -/
theorem inv_startFrame {s : State} (b : Byte) (hbuf : s.bufInv = true) (hq : s.rstQ = false) :
    (s.enterCritical.startFrame b).noResponse.Inv := by
  have hpos := nbytes_pos s.inst
  have hle := nbytes_le s.inst
  have hcnt : (BitVec.ofNat 8 s.inst.nbytes).toNat = s.inst.nbytes := by
    simp
    omega
  refine inv_of_high rfl hq ⟨⟨hbuf, ?_, ?_, rfl⟩, rfl, highCycles_pos s.inst _⟩
  · change 0 + (BitVec.ofNat 8 s.inst.nbytes).toNat = s.inst.nbytes
    omega
  · change 1 ≤ (BitVec.ofNat 8 s.inst.nbytes).toNat
    omega

/-- Every command keeps the invariant, from an idle block that had no reset at its edge. -/
theorem inv_exec {i : Instr} {s t : State} (h : s.Inv) (hp : s.phase = .idle) (hq : s.rstQ = false)
    (he : exec i s = .next t) : t.Inv := by
  obtain ⟨hbuf, hdout⟩ := (inv_iff_of_idle hp hq).mp h
  rcases exec_cases he with ⟨-, rfl⟩ | ⟨-, rfl⟩ | ⟨-, -, -, v, rfl⟩ | ⟨-, -, -, idx, a, v, -, hn, -, hv, rfl⟩
  · exact inv_of_idle hp hq ⟨stored_bufInv (s := s.configure) hbuf (by simp), hdout⟩
  · exact inv_startFrame _ hbuf hq
  · exact inv_of_idle hp hq ⟨hbuf, hdout⟩
  · exact inv_of_idle hp hq ⟨stored_bufInv hbuf (hv.trans (slot_fits hn)), hdout⟩

/-- Settles O51, by the kinds of edge: a reset establishes the invariant, a sequencer step, a command and an edge with nothing to do
keep it. -/
theorem everyStepKeepsTheInvariant : Obligations.EveryStepKeepsTheInvariant := by
  intro s t h hs
  rcases step_cases hs with ⟨-, rfl⟩ | ⟨hr, hb, hseq⟩ | ⟨i, u, ha, -, hu, rfl⟩ | ⟨hr, -, -, rfl⟩
  · exact inv_controllerIe (inv_takeReset _)
  · exact inv_sequencerStep (inv_advance h hr) hb hr hseq
  · obtain ⟨hr, -, -, hb⟩ := (accepts_iff s).mp ha
    exact inv_controllerIe (inv_exec (inv_advance h hr) ((idle_iff s).mp hb) hr hu)
  · exact inv_controllerIe (inv_noResponse (inv_advance h hr))

/-- Settles O52: nothing is listed in `BUF`, and the block is idle, low and unconfigured (R41). -/
theorem invariantHoldsAtReset : Obligations.InvariantHoldsAtReset := by
  unfold Obligations.InvariantHoldsAtReset
  rw [inv_iff]
  exact ⟨⟨rfl, rfl⟩, by decide, by decide, by decide, by decide⟩

/-! ### In the spec's words -/

/-- The addresses of a memory in canonical form rise strictly from one to the next. -/
theorem Memory.isChain_of_wf {m : Memory} (h : m.wf = true) : (m.map Prod.fst).IsChain (· < ·) := by
  induction m with
  | nil => exact .nil
  | cons c m ih =>
    obtain ⟨hhead, htail⟩ := (Memory.wf_cons c.1 c.2 m).mp h
    rw [List.map_cons, List.isChain_cons]
    refine ⟨fun a ha => ?_, ih htail⟩
    obtain ⟨d, hd, rfl⟩ : ∃ d ∈ m.head?, d.1 = a := by simpa [List.head?_map] using ha
    exact hhead d hd

/-- Every listed address is below the bound of the buffer. -/
theorem Memory.lt_of_within {m : Memory} {size : Nat} (h : m.within size = true) : ∀ c ∈ m, c.1 < size := by
  simpa [Memory.within] using h

/-- Settles O53: the parts of the invariant one by one; rising from one address to the next is rising throughout. -/
theorem invariantGivesTheSpecsFacts : Obligations.InvariantGivesTheSpecsFacts := by
  intro s h
  obtain ⟨⟨hwf, hwithin⟩, hdout, hframe, -, -⟩ := (inv_iff s).mp h
  refine ⟨fun hp => ?_, hdout, fun hb => ?_, Memory.lt_of_within hwithin, List.isChain_iff_pairwise.mp (Memory.isChain_of_wf hwf)⟩
  · simpa [hp] using hdout
  · obtain ⟨hsum, hcnt, htcnt, hie⟩ := hframe hb
    have hn : s.inst.nbytes = 3 * s.inst.n := rfl
    exact ⟨hsum, hcnt, by omega, htcnt, hie⟩

end Sys2Proof.Machine
end

section
/-! SUPPORT. Registers that no command looks at (R40, R43): what a command other than BEGIN and COMMIT does depends on `BUF` and the
parameters alone, so it does the same with any value in the others. -/

namespace Sys2Proof.Machine

/-- A function applied to the next state, if there is one. -/
def mapNext (f : State → State) : Host.Outcome State Fault Refusal → Host.Outcome State Fault Refusal
  | .next t => .next (f t)
  | .fault e => .fault e
  | .refused r => .refused r

@[simp] theorem mapNext_next (f : State → State) (t : State) : mapNext f (.next t) = .next (f t) := rfl

@[simp] theorem mapNext_fault (f : State → State) (e : Fault) : mapNext f (.fault e) = .fault e := rfl

@[simp] theorem mapNext_refused (f : State → State) (r : Refusal) : mapNext f (.refused r) = .refused r := rfl

/-- The colour of the slot is all that a command with a valid index takes from the state: it stores bytes made of it or responds with
a word made of it, the same in every state. -/
theorem exec_indexed_uniform {i : Instr} {idx : Byte} (hi : i.index? = some idx) :
    (∃ (a : Nat) (w : Color → List Byte), ∀ s : State, idx.toNat < s.inst.n →
      exec i s = .next (s.stored a (w (s.slotColor idx)))) ∨
    (∃ w : Color → Word32, ∀ s : State, idx.toNat < s.inst.n → exec i s = .next (s.respond (w (s.slotColor idx)))) := by
  cases i <;> simp only [Instr.index?, Option.some.injEq, reduceCtorEq] at hi <;> subst hi
  case setRgb r g b => exact .inl ⟨_, fun _ => wire (mkRGB r g b), fun _ h => exec_setRgb h r g b⟩
  case setBrgb k r g b => exact .inl ⟨_, fun _ => wire (mkBRGB k r g b), fun _ h => exec_setBrgb h k r g b⟩
  case setPacked w => exact .inl ⟨_, fun _ => wire (mkPacked w), fun _ h => exec_setPacked h w⟩
  case setSeq0 => exact .inl ⟨_, fun _ => wire (mkSeq .s0), fun _ h => exec_setSeq0 h⟩
  case setSeq1 v0 => exact .inl ⟨_, fun _ => wire (mkSeq (.s1 v0)), fun _ h => exec_setSeq1 h v0⟩
  case setSeq2 v0 v1 => exact .inl ⟨_, fun _ => wire (mkSeq (.s2 v0 v1)), fun _ h => exec_setSeq2 h v0 v1⟩
  case setSeq3 v0 v1 v2 => exact .inl ⟨_, fun _ => wire (mkSeq (.s3 v0 v1 v2)), fun _ h => exec_setSeq3 h v0 v1 v2⟩
  case setSeq4 v0 v1 v2 v3 =>
    exact .inl ⟨_, fun _ => wire (mkSeq (.s4 v0 v1 v2 v3)), fun _ h => exec_setSeq4 h v0 v1 v2 v3⟩
  case get => exact .inr ⟨rgb24, fun _ h => exec_get h⟩
  case getR => exact .inr ⟨fun c => zext32 c.r, fun _ h => exec_getR h⟩
  case getG => exact .inr ⟨fun c => zext32 c.g, fun _ h => exec_getG h⟩
  case getB => exact .inr ⟨fun c => zext32 c.b, fun _ h => exec_getB h⟩
  case putR v => exact .inl ⟨_, fun _ => [v], fun _ h => exec_putR h v⟩
  case putG v => exact .inl ⟨_, fun _ => [v], fun _ h => exec_putG h v⟩
  case putB v => exact .inl ⟨_, fun _ => [v], fun _ h => exec_putB h v⟩
  case dim k => exact .inl ⟨_, fun c => wire (scale c k), fun _ h => exec_dim h k⟩
  case dimmer k => exact .inr ⟨fun c => rgb24 (scale c k), fun _ h => exec_dimmer h k⟩

/-- `f` writes only registers that neither an access of `BUF` nor a response reads or writes. -/
structure OffPath (f : State → State) : Prop where
  inst : ∀ s, (f s).inst = s.inst
  loadByte : ∀ s a, (f s).loadByte a = s.loadByte a
  stored : ∀ s a v, f (s.stored a v) = (f s).stored a v
  respond : ∀ s v, f (s.respond v) = (f s).respond v

theorem OffPath.slotColor {f : State → State} (hf : OffPath f) (s : State) (idx : Byte) :
    (f s).slotColor idx = s.slotColor idx := by
  simp only [State.slotColor, hf.loadByte]

/-- Every command but BEGIN and COMMIT does the same whatever is in those registers, and leaves it there. -/
theorem OffPath.exec {f : State → State} (hf : OffPath f) (s : State) {i : Instr} (hbegin : i ≠ .beginStrip)
    (hcommit : i ≠ .commit) : exec i (f s) = mapNext f (exec i s) := by
  cases hi : i.index? with
  | none =>
    obtain rfl : i = .size := by cases i <;> simp_all [Instr.index?]
    rw [exec_size, exec_size, mapNext_next, hf.inst, hf.respond]
  | some idx =>
    by_cases hn : idx.toNat < s.inst.n
    · have hn' : idx.toNat < (f s).inst.n := by rwa [hf.inst]
      rcases exec_indexed_uniform hi with ⟨a, w, h⟩ | ⟨w, h⟩
      · rw [h _ hn', h _ hn, mapNext_next, hf.slotColor, hf.stored]
      · rw [h _ hn', h _ hn, mapNext_next, hf.slotColor, hf.respond]
    · rw [exec_refused hi (by rwa [hf.inst]), exec_refused hi hn, mapNext_refused]

end Sys2Proof.Machine
end

section
/-! SUPPORT. Where a frame begins and ends, and the ports `ie_clr` and `ie_set` (R36, R215, R217). -/

namespace Sys2Proof.Machine

@[simp] theorem controllerIe_phase (s t : State) : (controllerIe s t).phase = t.phase := by
  rcases controllerIe_cases s t with h | h <;> rw [h]
  rfl

/-- Only COMMIT writes `PHASE` (R43, R130). -/
theorem exec_phase {i : Instr} {s t : State} (hi : i ≠ .commit) (h : exec i s = .next t) : t.phase = s.phase := by
  rcases exec_cases h with ⟨-, rfl⟩ | ⟨hc, -⟩ | ⟨-, -, -, v, rfl⟩ | ⟨-, -, -, idx, a, v, -, -, -, -, rfl⟩
  · rfl
  · exact absurd hc hi
  · rfl
  · rfl

/-! ### The first edge of a frame -/

theorem ieClr_iff (s : State) : s.ieClr = true ↔ s.accepts = true ∧ decode s.input.cmd = .ok .commit := by
  unfold State.ieClr
  cases decode s.input.cmd <;> simp

/-- The edge `ie_clr` announces is COMMIT's accept edge (R171, R215). -/
theorem step_of_ieClr {s : State} (h : s.ieClr = true) :
    step s = .next (s.advance.enterCritical.startFrame (s.loadByte 0)).noResponse := by
  obtain ⟨ha, hd⟩ := (ieClr_iff s).mp h
  rw [step_of_command ha hd, exec_commit, withController_next, controllerIe_of_busy_after rfl, advance_loadByte]

/-- Any other edge leaves an idle block idle. -/
theorem step_stays_idle {s t : State} (hp : s.phase = .idle) (h : s.ieClr = false) (hs : step s = .next t) :
    t.phase = .idle := by
  have hb : s.busy = false := (idle_iff s).mpr hp
  rcases step_cases hs with ⟨-, rfl⟩ | ⟨-, hb', -⟩ | ⟨i, u, ha, hd, hu, rfl⟩ | ⟨-, -, -, rfl⟩
  · simp
  · simp [hb] at hb'
  · have hi : i ≠ .commit := by
      rintro rfl
      simp [(ieClr_iff s).mpr ⟨ha, hd⟩] at h
    rw [controllerIe_phase, exec_phase hi hu]
    exact hp
  · simpa using hp

/-- `ie_clr` is asserted exactly before the edge that starts a frame. -/
theorem ieClr_iff_starts_frame (s : State) :
    s.ieClr = true ↔ s.phase = .idle ∧ ∃ t, step s = .next t ∧ t.phase ≠ .idle := by
  constructor
  · intro h
    obtain ⟨ha, -⟩ := (ieClr_iff s).mp h
    obtain ⟨-, -, -, hb⟩ := (accepts_iff s).mp ha
    exact ⟨(idle_iff s).mp hb, _, step_of_ieClr h, by simp⟩
  · rintro ⟨hp, t, hs, ht⟩
    by_contra h
    exact ht (step_stays_idle hp (by simpa using h) hs)

/-! ### The last edge of a frame -/

theorem frameEnds_iff (s : State) : s.frameEnds = true ↔
    s.input.rst = false ∧ s.phase = .low ∧ s.inst.tBit ≤ s.tcnt.toNat + 1 ∧ s.bitn = 0 ∧ s.cnt = 1 := by
  simp [State.frameEnds, and_assoc]

/-- The edge that ends a frame is R177's. -/
theorem step_of_frameEnds {s : State} (h : s.frameEnds = true) : step s = .next (sequencerEnd s.advance) := by
  obtain ⟨hr, hp, ht, hbit, hcnt⟩ := (frameEnds_iff s).mp h
  rw [step_of_busy hr ((busy_iff s).mpr (.inr hp)), sequencerStep_end (s := s.advance) hp (Nat.not_lt.mpr ht) hbit hcnt]

theorem sequencerHigh_phase_ne_idle {s : State} (hp : s.phase = .high) : (sequencerHigh s).phase ≠ .idle := by
  unfold sequencerHigh
  split <;> simp [hp]

/-- Of the sequencer's rules only R177 makes the block idle. -/
theorem frameEnds_of_step_idle {s t : State} (hb : s.busy = true) (hr : s.input.rst = false) (hs : step s = .next t)
    (ht : t.phase = .idle) : s.frameEnds = true := by
  rw [step_of_busy hr hb] at hs
  rcases sequencerStep_cases (s := s.advance) hb hs with
    ⟨hp, rfl⟩ | ⟨hp, -, rfl⟩ | ⟨-, -, -, rfl⟩ | ⟨-, -, -, -, -, rfl⟩ | ⟨hp, hlast, hbit, hcnt, -⟩
  · exact absurd ht (sequencerHigh_phase_ne_idle hp)
  · exact absurd (hp.symm.trans ht) (by simp)
  · simp at ht
  · simp at ht
  · exact (frameEnds_iff s).mpr ⟨hr, hp, hlast, hbit, hcnt⟩

theorem frameEnds_iff_ends_frame (s : State) :
    s.frameEnds = true ↔ s.phase ≠ .idle ∧ s.input.rst = false ∧ ∃ t, step s = .next t ∧ t.phase = .idle := by
  constructor
  · intro h
    obtain ⟨hr, hp, -⟩ := (frameEnds_iff s).mp h
    exact ⟨by simp [hp], hr, _, step_of_frameEnds h, rfl⟩
  · rintro ⟨hp, hr, t, hs, ht⟩
    have hb : s.busy = true := by simpa [State.busy] using hp
    exact frameEnds_of_step_idle hb hr hs ht

theorem ieSet_iff (s : State) : s.ieSet = true ↔ s.savedIe = true ∧ s.frameEnds = true := by
  simp [State.ieSet, and_comm]

/-- Settles O42: `ie_clr` announces COMMIT's accept edge and `ie_set` R177's, and those edges write `IE` as R215 and R217 say. -/
theorem interruptEnableFollowsPorts : Obligations.InterruptEnableFollowsPorts := by
  refine ⟨fun s => ⟨ieClr_iff s, ieClr_iff_starts_frame s, frameEnds_iff_ends_frame s, ?_⟩, fun s t hs => ⟨?_, ?_, ?_⟩⟩
  · rw [ieSet_iff, frameEnds_iff_ends_frame]
  · intro h
    obtain rfl := Host.Outcome.next.inj (hs.symm.trans (step_of_ieClr h))
    exact ⟨rfl, rfl, rfl⟩
  · intro h
    obtain ⟨hsaved, hends⟩ := (ieSet_iff s).mp h
    obtain rfl := Host.Outcome.next.inj (hs.symm.trans (step_of_frameEnds hends))
    exact ⟨hsaved, rfl⟩
  · intro hends hset
    obtain rfl := Host.Outcome.next.inj (hs.symm.trans (step_of_frameEnds hends))
    obtain ⟨hp, -, -⟩ := (frameEnds_iff_ends_frame s).mp hends
    have hsaved : s.savedIe = false := by simpa [State.ieSet, hends] using hset
    have hclr : s.ieClr = false := by simpa [hp] using (ieClr_iff_starts_frame s).not
    exact ⟨hclr, hsaved, rfl⟩

end Sys2Proof.Machine
end

section
/-! SUPPORT. The registers of the sequencer and `SAVED_IE` while no frame runs (R40, R41): a step from an idle state takes nothing from
them. -/

namespace Sys2Proof.Machine

/-- The registers that no port shows: those of the sequencer, and `SAVED_IE` (R28 to R32, R34). -/
structure Hidden where
  ptr : Byte
  cnt : Byte
  shr : Byte
  tcnt : Byte
  bitn : BitVec 3
  savedIe : Bool

/-- The state with other values in its hidden registers. -/
def State.withHidden (h : Hidden) (s : State) : State :=
  { s with ptr := h.ptr, cnt := h.cnt, shr := h.shr, tcnt := h.tcnt, bitn := h.bitn, savedIe := h.savedIe }

theorem offPath_withHidden (h : Hidden) : OffPath (State.withHidden h) :=
  ⟨fun _ => rfl, fun _ _ => rfl, fun _ _ _ => rfl, fun _ _ => rfl⟩

/-- No command but COMMIT reads or writes one of them (R40, R43). -/
theorem exec_withHidden (h : Hidden) (s : State) {i : Instr} (hi : i ≠ .commit) :
    exec i (s.withHidden h) = mapNext (State.withHidden h) (exec i s) := by
  by_cases hbegin : i = .beginStrip
  · subst hbegin
    rw [exec_begin, exec_begin, mapNext_next]
    rfl
  · exact (offPath_withHidden h).exec s hbegin hi

theorem controllerIe_withHidden (h : Hidden) (s t : State) :
    controllerIe (s.withHidden h) (t.withHidden h) = (controllerIe s t).withHidden h := by
  rw [controllerIe, controllerIe, apply_ite (State.withHidden h)]
  rfl

theorem withController_mapNext_withHidden (h : Hidden) (s : State) (o : Host.Outcome State Fault Refusal) :
    withController (s.withHidden h) (mapNext (State.withHidden h) o) =
      mapNext (State.withHidden h) (withController s o) := by
  cases o with
  | next t => simp only [mapNext_next, withController_next, controllerIe_withHidden]
  | fault e => rfl
  | refused r => rfl

/-- The first edge of a frame writes every one of them. -/
theorem step_withHidden_of_ieClr (h : Hidden) {s : State} (hc : s.ieClr = true) : step (s.withHidden h) = step s := by
  rw [step_of_ieClr hc, step_of_ieClr (s := s.withHidden h) hc]
  rfl

/-- Any other edge of an idle block either writes all of them (a reset), or refuses, or leaves them alone. -/
theorem step_withHidden_of_idle (h : Hidden) {s : State} (hp : s.phase = .idle) (hc : s.ieClr = false) :
    step (s.withHidden h) = step s ∨ step (s.withHidden h) = mapNext (State.withHidden h) (step s) := by
  have hb : s.busy = false := (idle_iff s).mpr hp
  cases hr : s.input.rst with
  | true =>
    left
    rw [step_of_reset hr, step_of_reset (s := s.withHidden h) hr]
    rfl
  | false =>
    right
    cases ha : s.accepts with
    | false =>
      rw [step_of_quiet hr hb ha, step_of_quiet (s := s.withHidden h) hr hb ha, mapNext_next, ← controllerIe_withHidden]
      rfl
    | true =>
      cases hd : decode s.input.cmd with
      | error e =>
        rw [step_of_reserved ha hd, step_of_reserved (s := s.withHidden h) ha hd, mapNext_refused]
        rfl
      | ok i =>
        have hi : i ≠ .commit := by
          rintro rfl
          simp [(ieClr_iff s).mpr ⟨ha, hd⟩] at hc
        rw [step_of_command ha hd, step_of_command (s := s.withHidden h) ha hd, ← withController_mapNext_withHidden,
          ← exec_withHidden h s.advance hi]
        rfl

/-- With any values in the hidden registers an idle block stops as before, or has the same next state, or stays idle with those values
still in them. -/
theorem step_withHidden (h : Hidden) {s : State} (hp : s.phase = .idle) :
    (∀ r, step s = .refused r → step (s.withHidden h) = .refused r) ∧
    (∀ f, step s = .fault f → step (s.withHidden h) = .fault f) ∧
    (∀ t, step s = .next t → step (s.withHidden h) = .next t ∨
      (t.phase = .idle ∧ step (s.withHidden h) = .next (t.withHidden h))) := by
  cases hc : s.ieClr with
  | true =>
    rw [step_withHidden_of_ieClr h hc]
    exact ⟨fun _ e => e, fun _ e => e, fun _ e => .inl e⟩
  | false =>
    rcases step_withHidden_of_idle h hp hc with e | e <;> rw [e]
    · exact ⟨fun _ e => e, fun _ e => e, fun _ e => .inl e⟩
    · exact ⟨fun _ e => by rw [e, mapNext_refused], fun _ e => by rw [e, mapNext_fault],
        fun t e => .inr ⟨step_stays_idle hp hc e, by rw [e, mapNext_next]⟩⟩

/-- Settles O55: a reset and the accept edge of a COMMIT write the hidden registers without reading them, and every other edge of an
idle block passes them on unread. -/
theorem hiddenRegistersAreUnobservable : Obligations.HiddenRegistersAreUnobservable :=
  fun _ ptr cnt shr tcnt bitn savedIe hp => step_withHidden ⟨ptr, cnt, shr, tcnt, bitn, savedIe⟩ hp

end Sys2Proof.Machine
end

section
/-! SUPPORT. Edges without a reset: what the edge itself writes, an accept edge, an edge with nothing to do (R221), and what such edges
leave alone (R33, R42). -/

namespace Sys2Proof.Machine

/-! ### The edge and what follows it -/

/-- What an edge without a reset writes before its effect (R11, R37). -/
theorem advance_of_noReset {s : State} (hr : s.input.rst = false) :
    s.advance = { s with edge := s.edge + 1, inputs := s.inputs.tail, rstQ := false } := by
  rw [State.advance, hr]

/-- At an edge before which the block is idle, the controller's write follows where no frame has begun (R16, R35). -/
theorem controllerIe_of_idle_before {s : State} (hb : s.busy = false) (t : State) :
    controllerIe s t = if t.phase = .idle then { t with ie := s.input.ieWrite.getD t.ie } else t := by
  cases ht : t.busy with
  | true =>
    have hp : t.phase ≠ .idle := by simpa [State.busy] using ht
    rw [controllerIe_of_busy_after ht, if_neg hp]
  | false =>
    rw [controllerIe_of_idle hb ht, if_pos ((idle_iff t).mp ht), State.writeIe]

/-- Settles O7: the edge, the command, the controller's write. -/
theorem stepRunsTheDecodedCommand : Obligations.StepRunsTheDecodedCommand := by
  intro s i hr hv hq hp hd
  have hb : s.busy = false := (idle_iff s).mpr hp
  have ha : s.accepts = true := (accepts_iff s).mpr ⟨hr, hv, hq, hb⟩
  rw [step_of_command ha hd, ← advance_of_noReset hr]
  cases exec i s.advance with
  | next t => rw [withController_next, controllerIe_of_idle_before hb]
  | fault f => rfl
  | refused r => rfl

/-- Settles O45: nothing is accepted, so only `RSP_VALID` is cleared and the controller may write `IE`. -/
theorem quietEdgeClearsResponseValid : Obligations.QuietEdgeClearsResponseValid := by
  intro s hr hp hquiet
  have hb : s.busy = false := (idle_iff s).mpr hp
  have ha : s.accepts = false := by
    rcases hquiet with h | h <;> simp [State.accepts, State.cmdReady, h]
  rw [step_of_quiet hr hb ha, controllerIe_of_idle hb (t := s.advance.noResponse) hb, advance_of_noReset hr]
  rfl

/-- Settles O38: the edge writes the same with either sample, and the sequencer does not see it. -/
theorem frameIgnoresCommandPort : Obligations.FrameIgnoresCommandPort := by
  intro s i j rest hb hi hj
  rw [step_of_busy (s := { s with inputs := i :: rest }) hi hb, step_of_busy (s := { s with inputs := j :: rest }) hj hb,
    advance_of_noReset (s := { s with inputs := i :: rest }) hi, advance_of_noReset (s := { s with inputs := j :: rest }) hj]
  rfl

/-! ### What commands and frames leave alone -/

/-- A command that responds sets `RSP_VALID`; any other clears it and keeps `RSP` (R33). -/
theorem exec_response {i : Instr} {s t : State} (h : exec i s = .next t) :
    (responding i = true → t.rspValid = true) ∧ (responding i = false → NoResponse s t) := by
  rcases exec_cases h with ⟨rfl, rfl⟩ | ⟨rfl, rfl⟩ | ⟨-, -, hr, v, rfl⟩ | ⟨-, -, hr, idx, a, v, -, -, -, -, rfl⟩
  · exact ⟨nofun, fun _ => stored_noResponse s.configure _ _⟩
  · exact ⟨nofun, fun _ => ⟨rfl, rfl⟩⟩
  · exact ⟨fun _ => rfl, by simp [hr]⟩
  · exact ⟨by simp [hr], fun _ => stored_noResponse s a v⟩

/-- Settles O27: the six commands are those of `responding`. -/
theorem onlySixCommandsRespond : Obligations.OnlySixCommandsRespond := by
  intro s t i h
  obtain ⟨hyes, hno⟩ := exec_response h
  cases i
  case size | get | getR | getG | getB | dimmer => exact hyes rfl
  all_goals exact hno rfl

/-- No sequencer step writes `BUF` or `DIR` (R173 to R177). -/
theorem sequencerStep_keeps {s t : State} (hb : s.busy = true) (h : sequencerStep s = .next t) :
    t.buf = s.buf ∧ t.bufKey = s.bufKey ∧ t.dir = s.dir := by
  rcases sequencerStep_cases hb h with ⟨-, rfl⟩ | ⟨-, -, rfl⟩ | ⟨-, -, -, rfl⟩ | ⟨-, -, -, -, -, rfl⟩ | ⟨-, -, -, -, rfl⟩
  · unfold sequencerHigh
    split <;> exact ⟨rfl, rfl, rfl⟩
  all_goals exact ⟨rfl, rfl, rfl⟩

/-- Settles O48: a step of a frame is a sequencer step. -/
theorem bufferFixedDuringFrame : Obligations.BufferFixedDuringFrame := by
  intro s t hb hr hs
  rw [step_of_busy hr hb] at hs
  obtain ⟨hbuf, hkey, -⟩ := sequencerStep_keeps (s := s.advance) hb hs
  exact ⟨hbuf, loadByte_congr hbuf hkey⟩

/-- No command clears `DIR`: BEGIN sets it and no other writes it (R130). -/
theorem exec_dir {i : Instr} {s t : State} (hd : s.dir = true) (h : exec i s = .next t) : t.dir = true := by
  rcases exec_cases h with ⟨-, rfl⟩ | ⟨-, rfl⟩ | ⟨-, -, -, v, rfl⟩ | ⟨-, -, -, idx, a, v, -, -, -, -, rfl⟩
  · rfl
  all_goals exact hd

@[simp] theorem controllerIe_dir (s t : State) : (controllerIe s t).dir = t.dir := by
  rcases controllerIe_cases s t with h | h <;> rw [h]
  rfl

/-- Settles O49, by the kinds of edge: only a reset clears `DIR`. -/
theorem directionStaysSet : Obligations.DirectionStaysSet := by
  intro s t hd hr hs
  rcases step_cases hs with ⟨hr', -⟩ | ⟨-, hb, hseq⟩ | ⟨i, u, -, -, hu, rfl⟩ | ⟨-, -, -, rfl⟩
  · simp [hr] at hr'
  · obtain ⟨-, -, hdir⟩ := sequencerStep_keeps (s := s.advance) hb hseq
    exact hdir.trans hd
  · rw [controllerIe_dir]
    exact exec_dir (s := s.advance) hd hu
  · rw [controllerIe_dir]
    exact hd

end Sys2Proof.Machine
end

section
/-! SUPPORT. The pad and the values at reset (R26, R41). -/

namespace Sys2Proof.Machine

theorem pad_of_configured {s : State} (h : s.dir = true) : s.pad = .driven s.dout := by
  simp [State.pad, h]

theorem pad_of_unconfigured {s : State} (h : s.dir = false) : s.pad = .z := by
  simp [State.pad, h]

/-- The line has the level the pad drives (R26). -/
theorem line_of_driven {s : State} {level : Bool} (h : s.pad = .driven level) : s.line = level := by
  simp [State.line, h]

/-- Settles O46: the other ports are copies of state elements (R36). -/
theorem padIsDoutWhenConfigured : Obligations.PadIsDoutWhenConfigured := by
  intro s
  exact ⟨fun h => ⟨pad_of_configured h, line_of_driven (pad_of_configured h)⟩, pad_of_unconfigured, rfl, rfl, rfl, rfl⟩

/-- Settles O44: the fields are the given values, and a block just reset is neither ready nor configured. -/
theorem resetStateValues : Obligations.ResetStateValues :=
  ⟨rfl, rfl, rfl, rfl, rfl, pad_of_unconfigured rfl, rfl⟩

end Sys2Proof.Machine
end

section
/-! SUPPORT. The refusal of an index that names no LED (R55). -/

namespace Sys2Proof.Machine

/-- Settles O25: every meaning with an index stands behind the check of the index, which the premise fails. -/
theorem indexOutOfRangeIsRefused : Obligations.IndexOutOfRangeIsRefused := by
  intro s i idx hi hn
  exact exec_refused hi (Nat.not_lt.mpr hn)

end Sys2Proof.Machine
end

section
/-! SUPPORT. The words that match a row of the opcode table: they are those that decode (R73, R74), no word matches two rows, and the
fields that a mask of R72 leaves free are the operands of the row's command (R70, R71, R76 to R80). -/

namespace Sys2Proof.Machine

/-! ### Matching a row -/

theorem accepts_iff_masked (r : Row) (w : CmdWord) : r.accepts w = true ↔ w &&& r.mask = r.pat := by
  simp [Row.accepts]

/-- The masks and matches of the statements are those of the decoder's table, row by row. -/
theorem opcodeTable_masks : (opcodeTable.map fun r => (r.mask, r.pat)) = maskTable := rfl

theorem matches_maskTable_iff (w : CmdWord) :
    (∃ p ∈ maskTable, w &&& p.1 = p.2) ↔ ∃ r ∈ opcodeTable, r.accepts w = true := by
  simp [← opcodeTable_masks, accepts_iff_masked]

/-- A word that matches row `k` of the table decodes by it. -/
theorem decode_of_masked (k : Fin 20) {w : CmdWord} (h : w &&& opcodeTable[k].mask = opcodeTable[k].pat) :
    decode w = .ok (opcodeTable[k].build w) :=
  decode_of_accepts (List.getElem_mem _) ((accepts_iff_masked _ w).mpr h)

theorem decode_ok_iff (w : CmdWord) : (∃ i, decode w = .ok i) ↔ ∃ r ∈ opcodeTable, r.accepts w = true := by
  constructor
  · rintro ⟨i, h⟩
    obtain ⟨r, hr, ha, -⟩ := row_of_decode h
    exact ⟨r, hr, ha⟩
  · rintro ⟨r, hr, ha⟩
    exact ⟨r.build w, decode_of_accepts hr ha⟩

theorem decode_error_iff (w : CmdWord) : (∃ e, decode w = .error e) ↔ ¬ ∃ i, decode w = .ok i := by
  cases decode w <;> simp

theorem reserved_iff_matches_no_row (w : CmdWord) :
    (∃ e, decode w = .error e) ↔ ∀ p ∈ maskTable, w &&& p.1 ≠ p.2 := by
  rw [decode_error_iff, decode_ok_iff, ← matches_maskTable_iff]
  simp only [not_exists, not_and, ne_eq]

/-- Settles O3: a word that matches a row decodes by that row, and a word that decodes was found by one. -/
theorem decodeAcceptsExactlyTheRows : Obligations.DecodeAcceptsExactlyTheRows := by
  intro w
  exact ⟨(decode_ok_iff w).trans (matches_maskTable_iff w).symm, reserved_iff_matches_no_row w⟩

/-- Settles O8: the word decodes to no command, and the step names it. -/
theorem reservedWordIsRefused : Obligations.ReservedWordIsRefused := by
  intro s ha hw
  obtain ⟨e, he⟩ := (reserved_iff_matches_no_row s.input.cmd).mpr hw
  exact step_of_reserved ha he

/-! ### Disjoint rows -/

theorem opcodeTable_ops_distinct : opcodeTable.Pairwise fun p q => opOf p.pat ≠ opOf q.pat := by decide

/-- Settles O4: a word has one OP byte, and each row has its own. -/
theorem opcodeRowsDoNotOverlap : Obligations.OpcodeRowsDoNotOverlap := by
  refine ⟨opcodeTable_masks, opcodeTable_ops_distinct.imp_of_mem ?_⟩
  intro p q hp hq hne w ⟨hpw, hqw⟩
  exact hne ((op_of_accepts hp hpw).trans (op_of_accepts hq hqw).symm)

/-- Settles O5: row by row, the row's command, whose operands are the bytes of `ARG` at their bits of the word. -/
theorem rowsDecodeToTheirOperands : Obligations.RowsDecodeToTheirOperands := by
  intro w
  simp only [← byte3_argOf, ← byte2_argOf, ← byte1_argOf, ← byte0_argOf]
  exact ⟨decode_of_masked 0, decode_of_masked 1, decode_of_masked 2, decode_of_masked 3, decode_of_masked 4,
    decode_of_masked 5, decode_of_masked 6, decode_of_masked 7, decode_of_masked 8, decode_of_masked 9,
    decode_of_masked 10, decode_of_masked 11, decode_of_masked 12, decode_of_masked 13, decode_of_masked 14,
    decode_of_masked 15, decode_of_masked 16, decode_of_masked 17, decode_of_masked 18, decode_of_masked 19⟩

/-- Settles O6: each word of a command matches its row, and the decoder answers an error for the two reserved words. -/
theorem sampleWordsDecode : Obligations.SampleWordsDecode :=
  ⟨decode_of_masked 0 (by decide), decode_of_masked 1 (by decide), decode_of_masked 2 (by decide),
    decode_of_masked 3 (by decide), decode_of_masked 10 (by decide), decode_of_masked 11 (by decide),
    decode_of_masked 15 (by decide), decode_of_masked 19 (by decide), by decide, by decide⟩

/-! ### Decode and encode -/

/-- Settles O1: the word of a command matches the command's row, and the row reads the command back. -/
theorem decodeOfEncodeIsIdentity : Obligations.DecodeOfEncodeIsIdentity := by
  intro i
  obtain ⟨r, hr, -, ha, hb⟩ := Laws.RowReadsBack.all i
  rw [decode_of_accepts hr ha, hb]

/-- A byte that has no bit under a mask is its part outside the mask. -/
theorem byte_and_not {b m : Byte} (h : b &&& m = 0) : b &&& ~~~m = b := by
  apply BitVec.eq_of_getLsbD_eq
  intro i hi
  have hbit : (b.getLsbD i && m.getLsbD i) = false := by
    rw [← BitVec.getLsbD_and, h]
    exact BitVec.getLsbD_zero
  cases hb : b.getLsbD i <;> simp_all

theorem byte_and_not_zero (b : Byte) : b &&& ~~~0 = b := byte_and_ff b

theorem byte_and_not_ff (b : Byte) : b &&& ~~~0xFF = 0 := byte_and_zero b

/-- A word that matches a row of an indexed command (R72) has the row's OP byte, and of ARG only what the mask leaves free. -/
theorem word_of_masked {w : CmdWord} {op m3 m2 m1 m0 : Byte}
    (h : w &&& mkWord 0xFF 0 (mkArg m3 m2 m1 m0) = mkWord op 0 0) :
    mkWord op (idxOf w) (mkArg (byte3 (argOf w) &&& ~~~m3) (byte2 (argOf w) &&& ~~~m2) (byte1 (argOf w) &&& ~~~m1)
      (byte0 (argOf w) &&& ~~~m0)) = w := by
  obtain ⟨hop, -, h3, h2, h1, h0⟩ := fields_of_and _ _ _ h
  simp only [opOf_mkWord, argOf_mkWord, ← mkArg_zero, byte3_mkArg, byte2_mkArg, byte1_mkArg, byte0_mkArg,
    byte_and_ff] at hop h3 h2 h1 h0
  rw [byte_and_not h3, byte_and_not h2, byte_and_not h1, byte_and_not h0, mkArg_bytes, ← hop, mkWord_fields]

/-! The words that match each mask of R72 with the OP byte `op`. -/

section Masks
variable {w p : CmdWord} {op : Byte} (hp : p = mkWord op 0 0)
include hp

theorem word_of_mask_strip (h : w &&& 0xFFFFFFFFFFFF = p) : mkWord op 0 0 = w := by
  rw [← hp, ← h]
  exact BitVec.and_allOnes

theorem word_of_mask_low0 (h : w &&& 0xFF00FFFFFFFF = p) : mkWord op (idxOf w) 0 = w := by
  rw [hp, mask_low0] at h
  simpa only [byte_and_not_ff, mkArg_zero] using word_of_masked h

theorem word_of_mask_low1 (h : w &&& 0xFF00FFFFFF00 = p) :
    mkWord op (idxOf w) (mkArg 0 0 0 (byte0 (argOf w))) = w := by
  rw [hp, mask_low1] at h
  simpa only [byte_and_not_ff, byte_and_not_zero] using word_of_masked h

theorem word_of_mask_low2 (h : w &&& 0xFF00FFFF0000 = p) :
    mkWord op (idxOf w) (mkArg 0 0 (byte1 (argOf w)) (byte0 (argOf w))) = w := by
  rw [hp, mask_low2] at h
  simpa only [byte_and_not_ff, byte_and_not_zero] using word_of_masked h

theorem word_of_mask_low3 (h : w &&& 0xFF00FF000000 = p) :
    mkWord op (idxOf w) (mkArg 0 (byte2 (argOf w)) (byte1 (argOf w)) (byte0 (argOf w))) = w := by
  rw [hp, mask_low3] at h
  simpa only [byte_and_not_ff, byte_and_not_zero] using word_of_masked h

theorem word_of_mask_bytes (h : w &&& 0xFF0000000000 = p) :
    mkWord op (idxOf w) (mkArg (byte3 (argOf w)) (byte2 (argOf w)) (byte1 (argOf w)) (byte0 (argOf w))) = w := by
  rw [hp, mask_free] at h
  simpa only [byte_and_not_zero] using word_of_masked h

theorem word_of_mask_free (h : w &&& 0xFF0000000000 = p) : mkWord op (idxOf w) (argOf w) = w := by
  rw [← mkArg_bytes (argOf w), word_of_mask_bytes hp h]

end Masks

/-- The row's command, read from a word that matches the row, has that word. -/
theorem encode_build (w : CmdWord) : ∀ r ∈ opcodeTable, w &&& r.mask = r.pat → encode (r.build w) = w := by
  simp only [opcodeTable, rowsStrip, rowsSet, rowsGet, rowsEdit, List.cons_append, List.nil_append, List.forall_mem_cons]
  refine ⟨word_of_mask_strip (by decide), word_of_mask_strip (by decide), word_of_mask_strip (by decide), ?set⟩
  refine ⟨word_of_mask_low3 (by decide), word_of_mask_bytes (by decide), word_of_mask_free (by decide), ?seq⟩
  refine ⟨word_of_mask_low0 (by decide), word_of_mask_low1 (by decide), word_of_mask_low2 (by decide),
    word_of_mask_low3 (by decide), word_of_mask_bytes (by decide), ?get⟩
  refine ⟨word_of_mask_low0 (by decide), word_of_mask_low0 (by decide), word_of_mask_low0 (by decide),
    word_of_mask_low0 (by decide), ?edit⟩
  exact ⟨word_of_mask_low1 (by decide), word_of_mask_low1 (by decide), word_of_mask_low1 (by decide),
    word_of_mask_low1 (by decide), word_of_mask_low1 (by decide), List.forall_mem_nil _⟩

/-- Settles O2: the word was read by a row that accepts it, and the row's command has that word. -/
theorem encodeOfDecodeIsIdentity : Obligations.EncodeOfDecodeIsIdentity := by
  intro w i h
  obtain ⟨r, hr, ha, rfl⟩ := row_of_decode h
  exact encode_build w r hr ((accepts_iff_masked r w).mp ha)

end Sys2Proof.Machine
end

section
/-! SUPPORT. The assembler's omitted index (R85) and its named colours (R86). -/

namespace Sys2Proof.Machine.Asm

/-- Every byte is a byte operand as written. -/
theorem byte_toNat (b : Byte) : byte b.toNat = .ok b := by
  simp [byte, b.isLt]

theorem lookup_colorNames : ∀ p ∈ colorNames, colorNames.lookup p.1 = some p.2 := by decide

/-- A named colour's line is that of SET.RGB with the colour's channels (R86). -/
theorem nameLine_of_mem {p : List Char × ColorName} (hp : p ∈ colorNames) (i : Nat) :
    nameLine i p.1 = assemble .setRgb
      [.num i, .num (red p.2.color).toNat, .num (green p.2.color).toNat, .num (blue p.2.color).toNat] := by
  simp only [nameLine, assemble, byte_toNat, lookup_colorNames p hp]
  rfl

/-- Settles O58: a written 0 is in range and reads as index 0, so the two lines compute to the same. -/
theorem assemblerDefaultsAndNames : Obligations.AssemblerDefaultsAndNames := by
  refine ⟨?_, ?_, ?_, ?_, ?_, ?_, ?_, ?_⟩
  · intro r g b; rfl
  · intro k r g b; rfl
  · intro w; rfl
  · intro vs; rfl
  · intro cs; rfl
  · intro op hop
    fin_cases hop <;> rfl
  · intro op hop v
    fin_cases hop <;> rfl
  · intro p hp i
    exact nameLine_of_mem hp i

end Sys2Proof.Machine.Asm
end

section
/-! SUPPORT. The laws of the colour encode unit (40_color): the scaling of a channel, its order laws, and the forms a colour is
written in. -/

namespace Sys2Proof.Machine

/-! ### One channel scaled (R104, R105) -/

/-- A brightness other than 0 is its own factor. -/
theorem fac_of_ne_zero {k : Byte} (hk : k ≠ 0) : (fac k).toNat = k.toNat := by
  rw [fac_toNat, if_neg hk]

/-- The factor 256 is that of brightness 0 alone. -/
theorem fac_lt_of_ne_zero {k : Byte} (hk : k ≠ 0) : (fac k).toNat < 256 :=
  fac_of_ne_zero hk ▸ k.isLt

/-- The product fits in the 16 bits it is computed in. -/
theorem channel_mul_fac_lt (ch k : Byte) : ch.toNat * (fac k).toNat < 2 ^ 16 :=
  calc ch.toNat * (fac k).toNat ≤ ch.toNat * 256 := Nat.mul_le_mul_left _ (fac_le k)
    _ < 2 ^ 8 * 256 := Nat.mul_lt_mul_of_pos_right ch.isLt (by decide)

theorem scale1_of_zero (k : Byte) : scale1 0 k = 0 := by
  apply BitVec.eq_of_toNat_eq
  rw [scale1_toNat]
  simp

/-- Brightness 1 leaves nothing of any channel. -/
theorem scale1_one (ch : Byte) : scale1 ch 1 = 0 := by
  have hfac : (fac 1).toNat = 1 := rfl
  apply BitVec.eq_of_toNat_eq
  rw [scale1_toNat, hfac, Nat.mul_one]
  exact Nat.div_eq_of_lt ch.isLt

/-- A brightness other than 0 takes something from every channel that is not dark. -/
theorem scale1_lt {ch k : Byte} (hk : k ≠ 0) (hc : ch ≠ 0) : (scale1 ch k).toNat < ch.toNat := by
  have hpos : 0 < ch.toNat := Nat.pos_of_ne_zero fun e => hc (BitVec.eq_of_toNat_eq e)
  rw [scale1_toNat, Nat.div_lt_iff_lt_mul (by decide)]
  exact Nat.mul_lt_mul_of_pos_left (fac_lt_of_ne_zero hk) hpos

/-- A brightness other than 0 keeps only the dark channel. -/
theorem scale1_eq_self_iff {ch k : Byte} (hk : k ≠ 0) : scale1 ch k = ch ↔ ch = 0 := by
  constructor
  · intro h
    by_contra hc
    exact (scale1_lt hk hc).ne (congrArg BitVec.toNat h)
  · rintro rfl
    exact scale1_of_zero k

/-- Scaling is monotone in the channel and in the factor. -/
theorem scale1_mono {ch ch' k k' : Byte} (hc : ch ≤ ch') (hk : (fac k).toNat ≤ (fac k').toNat) :
    scale1 ch k ≤ scale1 ch' k' := by
  rw [BitVec.le_def, scale1_toNat, scale1_toNat]
  exact Nat.div_le_div_right (Nat.mul_le_mul hc hk)

/-- The factors of two brightnesses other than 0 are in the order of the brightnesses. -/
theorem fac_mono {k k' : Byte} (hk : k ≠ 0) (h : k ≤ k') : (fac k).toNat ≤ (fac k').toNat := by
  have hk' : k' ≠ 0 := by
    rintro rfl
    exact hk (BitVec.le_zero_iff.mp h)
  rw [fac_of_ne_zero hk, fac_of_ne_zero hk']
  exact h

/-- Brightness 0 has the largest factor. -/
theorem fac_le_fac_zero (k : Byte) : (fac k).toNat ≤ (fac 0).toNat := fac_le k

/-- Settles O9: the general laws are those of the factor and of the floor, and the examples compute. -/
theorem scalingIsFloorOfProduct : Obligations.ScalingIsFloorOfProduct := by
  intro ch k
  exact ⟨fac_toNat k, fac_pos k, fac_le k, channel_mul_fac_lt ch k, scale1_toNat ch k, scale1_zero ch, scale1_of_zero k,
    scale1_one ch, by decide, by decide, scale1_le ch k, scale1_eq_self_iff, by decide⟩

/-! ### The forms of a colour (R101, R103, R108 to R113) -/

/-- Four bytes with brightness 0 are three bytes. -/
theorem mkBRGB_zero (r g b : Byte) : mkBRGB 0 r g b = mkRGB r g b := scale_zero _

/-- An `ARG` with a zero top byte, packed, is the colour of its other three bytes. -/
theorem mkPacked_mkArg_zero (r g b : Byte) : mkPacked (mkArg 0 r g b) = mkRGB r g b := by
  rw [mkPacked_mkArg, mkBRGB_zero]

/-- The public form, packed, reads back. -/
theorem mkPacked_rgb24 (c : Color) : mkPacked (rgb24 c) = c := mkPacked_mkArg_zero c.r c.g c.b

/-- A list of more than four bytes is no sequence (U14). -/
theorem ofList_eq_none_iff (vs : List Byte) : ByteSeq.ofList vs = none ↔ 4 < vs.length := by
  match vs with
  | [] | [_] | [_, _] | [_, _, _] | [_, _, _, _] => simp [ByteSeq.ofList]
  | _ :: _ :: _ :: _ :: _ :: _ => simp [ByteSeq.ofList]

/-- Settles O11: the accessors replace what the constructor lists, and the public form packs with a zero brightness. -/
theorem colourConstructorsAndAccessors : Obligations.ColourConstructorsAndAccessors :=
  ⟨fun _ _ _ _ => ⟨rfl, rfl, rfl, rfl, rfl, rfl⟩, fun c => ⟨rfl, mkPacked_rgb24 c⟩, fun _ => rfl, fun _ => rfl⟩

/-- Settles O12: the bytes a short sequence leaves out are the zero bytes of `ARG`, the brightness among them. -/
theorem sequenceFormsAreTrailingAligned : Obligations.SequenceFormsAreTrailingAligned := by
  refine ⟨fun v0 v1 v2 v3 => ⟨⟨rfl, rfl, rfl, rfl, rfl⟩, ?_⟩, ofList_eq_none_iff⟩
  simp only [mkPacked_mkArg_zero]
  exact ⟨rfl, rfl, rfl, rfl, (mkPacked_mkArg v0 v1 v2 v3).symm⟩

/-- Settles O13: the table of R114 computes, row by row. -/
theorem namedColourValues : Obligations.NamedColourValues := by
  unfold Obligations.NamedColourValues
  decide

/-! ### The laws of scaling (R115) -/

/-- Black stays black under every brightness. -/
theorem scale_black (k : Byte) : scale ColorName.black.color k = ColorName.black.color := by
  change scale (mkRGB 0 0 0) k = mkRGB 0 0 0
  simp only [scale, mkRGB, scale1_of_zero]

/-- Of the full channel only brightness 254 leaves 253. -/
theorem scale1_full_eq_253_iff (k : Byte) : scale1 255 k = 253 ↔ k = 254 := by
  by_cases hk : k = 0
  · subst hk
    decide
  · rw [← BitVec.toNat_inj, ← BitVec.toNat_inj, scale1_toNat, fac_of_ne_zero hk]
    change 255 * k.toNat / 256 = 253 ↔ k.toNat = 254
    omega

/-- Two scalings by 255 are no one scaling: on the full channel they could only be the one by 254, which differs at 128. -/
theorem not_exists_scale_eq_scale_255_255 : ¬ ∃ k : Byte, ∀ c : Color, scale (scale c 255) 255 = scale c k := by
  rintro ⟨k, h⟩
  have hfull : 253 = scale1 255 k := congrArg Color.g (h ⟨255, 0, 0⟩)
  obtain rfl := (scale1_full_eq_253_iff k).mp hfull.symm
  have hhalf : scale1 (scale1 128 255) 255 = scale1 128 254 := congrArg Color.g (h ⟨128, 0, 0⟩)
  exact absurd hhalf (by decide)

/-- Settles O10, law by law: the forms of a colour, then scaling channel by channel. -/
theorem colourLaws : Obligations.ColourLaws := by
  refine ⟨fun _ _ _ => ⟨rfl, rfl, rfl⟩, fun k r g b => (mkPacked_mkArg k r g b).symm,
    fun r g b => ⟨(mkBRGB_zero r g b).symm, rfl⟩, scale_zero, scale_black,
    fun c k => ⟨scale1_le c.g k, scale1_le c.r k, scale1_le c.b k⟩, ⟨?channel, ?brightness, ?zero, ?notMonotone⟩,
    ⟨not_exists_scale_eq_scale_255_255, by decide, by decide, scale1_full_eq_253_iff, by decide, by decide, by decide⟩,
    fun _ => ⟨rfl, rfl⟩⟩
  case channel => exact fun _ _ _ hc => scale1_mono hc le_rfl
  case brightness => exact fun _ _ _ hk h => scale1_mono (BitVec.le_refl _) (fac_mono hk h)
  case zero => exact fun _ k => scale1_mono (BitVec.le_refl _) (fac_le_fac_zero k)
  case notMonotone => exact ⟨255, 1, by decide⟩

end Sys2Proof.Machine
end

section
/-! SUPPORT. The words of one command (R72): they are those that decode to it, with the operands read from the word. -/

namespace Sys2Proof.Machine

/-- A row's command, whatever its operands, has the row's OP byte. -/
theorem opOf_encode_build : ∀ r ∈ opcodeTable, ∀ w, opOf (encode (r.build w)) = opOf r.pat := by
  apply mem_opcodeTable
  intro k w
  fin_cases k <;> exact opOf_mkWord _ _ _

/-- A word matches a row exactly when it decodes to the command the row builds from it: a word that decodes to a command is the command's
word, so it has the row's OP byte, and the decoder then asks for the rest of the row. -/
theorem encoded_row (k : Fin 20) : Encoded opcodeTable[k].mask opcodeTable[k].pat opcodeTable[k].build := by
  have hk : opcodeTable[k] ∈ opcodeTable := List.getElem_mem _
  intro w
  refine ⟨decode_of_masked k, fun hd => ?_⟩
  have hop : opOf opcodeTable[k].pat = opOf w := by
    rw [← opOf_encode_build _ hk w, encodeOfDecodeIsIdentity w _ hd]
  rw [← accepts_iff_masked]
  by_contra ha
  rw [decode_of_row hk hop, if_neg ha] at hd
  cases hd

end Sys2Proof.Machine
end
section
/-! SUPPORT. The strip-wide commands BEGIN and SIZE (41_strip_commands section 2). -/

namespace Sys2Proof.Machine

/-- A command that answers its response alone changes nothing else. -/
theorem respondsOnly_of_exec {i : Instr} {s : State} {v : Word32} (h : exec i s = .next (s.respond v)) :
    RespondsOnly i s v :=
  ⟨_, h, respond_responds s v, rfl, respond_kept s v, respond_keepsControl s v⟩

/-- Settles O15: the response, and an LED count of a byte fits in it. -/
theorem sizeRespondsLedCount : Obligations.SizeRespondsLedCount := by
  refine ⟨encoded_row 1, fun s => ⟨respondsOnly_of_exec (exec_size s), ?_⟩⟩
  have := s.inst.n_fits
  rw [BitVec.toNat_ofNat]
  omega

/-- Bytes written twice are bytes written once. -/
theorem Memory.writeBytes_writeBytes_same {m : Memory} (a : Nat) (vs : List Byte) (h : m.wf = true) :
    (m.writeBytes a vs).writeBytes a vs = m.writeBytes a vs := by
  have hw := Memory.writeBytes_wf m a vs h
  refine Memory.ext_of_read _ _ (Memory.writeBytes_wf _ a vs hw) hw fun x => ?_
  by_cases hx : x < a ∨ a + vs.length ≤ x
  · rw [Memory.read_writeBytes_outside _ _ _ hx]
  · obtain ⟨i, rfl⟩ : ∃ i, x = a + i := Nat.exists_eq_add_of_le (by omega)
    have hi : i < vs.length := by omega
    rw [Memory.read_writeBytes_inside _ _ _ hi, Memory.read_writeBytes_inside _ _ _ hi]

theorem stored_stored_same {s : State} (a : Nat) (v : List Byte) (h : s.buf.wf = true) :
    (s.stored a v).stored a v = s.stored a v := by
  simp only [State.stored, Memory.writeBytes_writeBytes_same a v h]

/-- The state BEGIN leaves (R131). -/
def State.begun (s : State) : State := s.configure.stored 0 (List.replicate s.inst.nbytes 0)

theorem begun_loadByte {s : State} {a : Nat} (h : a < 3 * s.inst.n) : s.begun.loadByte a = 0 := by
  have hlen : a < (List.replicate s.inst.nbytes (0 : Byte)).length := by rwa [List.length_replicate]
  simpa [State.begun] using stored_loadByte_inside s.configure 0 _ hlen

theorem begun_loadByte_outside {s : State} {a : Nat} (h : 3 * s.inst.n ≤ a) : s.begun.loadByte a = s.loadByte a :=
  stored_loadByte_outside s.configure 0 _ (.inr (by rwa [List.length_replicate, Nat.zero_add]))

/-- In a buffer in canonical form the zeros of a second BEGIN are there already. -/
theorem begun_begun {s : State} (h : s.buf.wf = true) : s.begun.begun = s.begun :=
  stored_stored_same (s := s.configure) 0 _ h

/-- Settles O14: BEGIN stores zeros from the first byte of the buffer to the last, in the configured state. -/
theorem beginClearsAndConfigures : Obligations.BeginClearsAndConfigures := by
  refine ⟨encoded_row 0, fun s => ⟨s.begun, exec_begin s, fun _ => begun_loadByte, rfl, fun _ => begun_loadByte_outside,
    stored_noResponse s.configure _ _, stored_keepsControl s.configure _ _, fun hinv => ?idempotent, fun hdir hdout => ?pad⟩⟩
  case idempotent =>
    obtain ⟨⟨hwf, -⟩, -⟩ := (inv_iff s).mp hinv
    rw [exec_begin]
    exact congrArg Host.Outcome.next (begun_begun hwf)
  case pad =>
    have hdout' : s.begun.dout = false := hdout
    exact ⟨pad_of_unconfigured hdir, by rw [pad_of_configured rfl, hdout']⟩

end Sys2Proof.Machine
end

section
/-! SUPPORT. The commands that store a colour: the eight SETs and DIM (41_strip_commands sections 3 and 5). -/

namespace Sys2Proof.Machine

/-- A command that answers the store of a colour in its slot changes nothing else (R130, R150). -/
theorem storesColour_of_exec {i : Instr} {s : State} {idx : Byte} {c : Color}
    (h : exec i s = .next (s.stored (slot idx) (wire c))) : StoresColour i s idx c.r c.g c.b :=
  ⟨_, h, ⟨stored_wire_green s _ c, stored_wire_red s _ c, stored_wire_blue s _ c⟩, stored_kept s _ (wire c),
    stored_noResponse s _ _, stored_keepsControl s _ _⟩

/-- Settles O16: the row of the opcode table, and the store of the literal. -/
theorem setRgbStoresColour : Obligations.SetRgbStoresColour := by
  refine ⟨?_, fun s idx r g b h => storesColour_of_exec (exec_setRgb h r g b)⟩
  simp only [← byte2_argOf, ← byte1_argOf, ← byte0_argOf]
  exact encoded_row 3

/-- At full brightness a channel that is not dark loses one (R134). -/
theorem scale1_full (ch : Byte) : scale1 ch 255 = if ch = 0 then 0 else ch - 1 := by
  split
  · next h => rw [h, scale1_of_zero]
  · next h =>
    have hne : ch.toNat ≠ 0 := fun e => h (BitVec.eq_of_toNat_eq e)
    have hlt := ch.isLt
    have hfac : (fac 255).toNat = 255 := rfl
    have hpos : (1 : Byte) ≤ ch := Nat.one_le_iff_ne_zero.mpr hne
    have hpred : (ch - 1).toNat = ch.toNat - 1 := BitVec.toNat_sub_of_le hpos
    apply BitVec.eq_of_toNat_eq
    rw [scale1_toNat, hfac, hpred]
    omega

theorem storesColour_setBrgb {s : State} {idx : Byte} (h : idx.toNat < s.inst.n) (k r g b : Byte) :
    StoresColour (.setBrgb idx k r g b) s idx (scale1 r k) (scale1 g k) (scale1 b k) :=
  storesColour_of_exec (exec_setBrgb h k r g b)

/-- With brightness 0 the channels are stored as they are (R104). -/
theorem storesColour_setBrgb_zero {s : State} {idx : Byte} (h : idx.toNat < s.inst.n) (r g b : Byte) :
    StoresColour (.setBrgb idx 0 r g b) s idx r g b := by
  simpa only [scale1_zero] using storesColour_setBrgb h 0 r g b

/-- Settles O17: the row of the opcode table, and the store of the scaled literal. -/
theorem setBrgbStoresScaledColour : Obligations.SetBrgbStoresScaledColour := by
  refine ⟨?_, fun s idx k r g b h => ⟨storesColour_setBrgb h k r g b, ?_, scale1_full⟩⟩
  · simp only [← byte3_argOf, ← byte2_argOf, ← byte1_argOf, ← byte0_argOf]
    exact encoded_row 4
  · rintro rfl
    exact storesColour_setBrgb_zero h r g b

/-- Two commands with one outcome store one colour. -/
theorem StoresColour.of_exec_eq {i j : Instr} {s : State} {idx r g b : Byte} (h : StoresColour j s idx r g b)
    (he : exec i s = exec j s) : StoresColour i s idx r g b := by
  rwa [StoresColour, he]

/-- SET.PACKED is SET.BRGB with the bytes of the word (R109, R135). -/
theorem exec_setPacked_eq_setBrgb {s : State} {idx : Byte} (h : idx.toNat < s.inst.n) (w : Word32) :
    exec (.setPacked idx w) s = exec (.setBrgb idx (byte3 w) (byte2 w) (byte1 w) (byte0 w)) s := by
  rw [exec_setPacked h, exec_setBrgb h, mkPacked]

/-- Settles O18: SET.PACKED does what SET.BRGB does with the bytes of the word. -/
theorem setPackedStoresPackedColour : Obligations.SetPackedStoresPackedColour := by
  refine ⟨encoded_row 5, fun s idx w h => ?_⟩
  have he := exec_setPacked_eq_setBrgb h w
  refine ⟨(storesColour_setBrgb h _ _ _ _).of_exec_eq he, he, fun hk => ?_⟩
  have hk' : byte3 w = 0 := hk
  rw [hk'] at he
  exact (storesColour_setBrgb_zero h _ _ _).of_exec_eq he

/-- SET.SEQ3 is SET.RGB (R139). -/
theorem exec_setSeq3_eq_setRgb {s : State} {idx : Byte} (h : idx.toNat < s.inst.n) (v0 v1 v2 : Byte) :
    exec (.setSeq3 idx v0 v1 v2) s = exec (.setRgb idx v0 v1 v2) s := by
  rw [exec_setSeq3 h, exec_setRgb h, mkSeq]

/-- SET.SEQ4 is SET.BRGB (R140). -/
theorem exec_setSeq4_eq_setBrgb {s : State} {idx : Byte} (h : idx.toNat < s.inst.n) (v0 v1 v2 v3 : Byte) :
    exec (.setSeq4 idx v0 v1 v2 v3) s = exec (.setBrgb idx v0 v1 v2 v3) s := by
  rw [exec_setSeq4 h, exec_setBrgb h, mkSeq]

/-- Settles O19: each form stores its sequence's colour; the three-byte form is SET.RGB, the four-byte form SET.BRGB. -/
theorem setSeqStoresTrailingAlignedColour : Obligations.SetSeqStoresTrailingAlignedColour := by
  unfold Obligations.SetSeqStoresTrailingAlignedColour
  simp only [← byte3_argOf, ← byte2_argOf, ← byte1_argOf, ← byte0_argOf]
  refine ⟨encoded_row 6, encoded_row 7, encoded_row 8, encoded_row 9, encoded_row 10, fun s idx v0 v1 v2 v3 h => ?_⟩
  exact ⟨storesColour_of_exec (exec_setSeq0 h), storesColour_of_exec (exec_setSeq1 h v0),
    storesColour_of_exec (exec_setSeq2 h v0 v1), storesColour_of_exec (exec_setSeq3 h v0 v1 v2),
    storesColour_of_exec (exec_setSeq4 h v0 v1 v2 v3),
    (storesColour_setBrgb_zero h v1 v2 v3).of_exec_eq (exec_setSeq4_eq_setBrgb h 0 v1 v2 v3),
    exec_setSeq3_eq_setRgb h v0 v1 v2, exec_setSeq4_eq_setBrgb h v0 v1 v2 v3⟩

/-- Two states that hold one colour in a slot and have the bytes outside it from one state read alike. -/
theorem bytesKept_of_slotHolds {s t u : State} {idx r g b : Byte} (ht : SlotHolds t idx r g b) (hu : SlotHolds u idx r g b)
    (hst : BytesKeptOutside (3 * idx.toNat) 3 s t) (hsu : BytesKeptOutside (3 * idx.toNat) 3 s u) : BytesKept u t := by
  obtain ⟨htg, htr, htb⟩ := ht
  obtain ⟨hug, hur, hub⟩ := hu
  intro x
  by_cases hx : x < 3 * idx.toNat ∨ 3 * idx.toNat + 3 ≤ x
  · rw [hst x hx, hsu x hx]
  · obtain rfl | rfl | rfl : x = 3 * idx.toNat ∨ x = 3 * idx.toNat + 1 ∨ x = 3 * idx.toNat + 2 := by omega
    · rw [htg, hug]
    · rw [htr, hur]
    · rw [htb, hub]

theorem slotHolds_self (s : State) (idx : Byte) :
    SlotHolds s idx (s.loadByte (3 * idx.toNat + 1)) (s.loadByte (3 * idx.toNat)) (s.loadByte (3 * idx.toNat + 2)) :=
  ⟨rfl, rfl, rfl⟩

theorem storesColour_dim {s : State} {idx : Byte} (h : idx.toNat < s.inst.n) (k : Byte) :
    StoresColour (.dim idx k) s idx (scale1 (s.loadByte (3 * idx.toNat + 1)) k) (scale1 (s.loadByte (3 * idx.toNat)) k)
      (scale1 (s.loadByte (3 * idx.toNat + 2)) k) :=
  storesColour_of_exec (exec_dim h k)

/-- DIM with brightness 0 stores the slot's own colour (R148). -/
theorem exec_dim_zero_keeps {s : State} {idx : Byte} (h : idx.toNat < s.inst.n) :
    ∃ t, exec (.dim idx 0) s = .next t ∧ BytesKept s t := by
  obtain ⟨t, ht, hslot, hout, -, -⟩ := storesColour_dim h 0
  simp only [scale1_zero] at hslot
  exact ⟨t, ht, bytesKept_of_slotHolds hslot (slotHolds_self s idx) hout fun _ _ => rfl⟩

/-- Settles O23: the row of the opcode table, the store of the scaled slot, and the laws of one channel. -/
theorem dimScalesTheSlot : Obligations.DimScalesTheSlot := by
  refine ⟨?_, fun s idx k h => ⟨storesColour_dim h k, ?_, scale1_of_zero k, fun ch => scale1_le ch k⟩⟩
  · simp only [← byte0_argOf]
    exact encoded_row 18
  · rintro rfl
    exact exec_dim_zero_keeps h

end Sys2Proof.Machine
end

section
/-! SUPPORT. The commands that respond with what a slot holds: GET, GET.R, GET.G, GET.B and DIMMER (41_strip_commands sections 4
and 5). -/

namespace Sys2Proof.Machine

/-- Settles O20: the row of the opcode table, and the public form of the slot's colour. -/
theorem getRespondsColour : Obligations.GetRespondsColour :=
  ⟨encoded_row 11, fun _ _ h => respondsOnly_of_exec (exec_get h)⟩

/-- Settles O21: the rows of the opcode table, and the three channels of the slot's colour. -/
theorem getChannelRespondsByte : Obligations.GetChannelRespondsByte :=
  ⟨encoded_row 12, encoded_row 13, encoded_row 14, fun _ _ h =>
    ⟨respondsOnly_of_exec (exec_getR h), respondsOnly_of_exec (exec_getG h), respondsOnly_of_exec (exec_getB h)⟩⟩

/-- Settles O24: the row of the opcode table, and the public form of the slot's colour, scaled. -/
theorem dimmerRespondsScaledColour : Obligations.DimmerRespondsScaledColour := by
  refine ⟨?_, fun s idx k h => ⟨respondsOnly_of_exec (exec_dimmer h k), ?_⟩⟩
  · simp only [← byte0_argOf]
    exact encoded_row 19
  · rintro rfl
    have hd := exec_dimmer h 0
    rw [scale_zero] at hd
    exact respondsOnly_of_exec hd

/-- A colour stored in a slot is the colour the slot holds (R113). -/
theorem stored_wire_slotColor (s : State) (idx : Byte) (c : Color) :
    (s.stored (slot idx) (wire c)).slotColor idx = c := by
  simp only [State.slotColor, stored_wire_green, stored_wire_red, stored_wire_blue]

/-- A SET command stores the colour of its literal in its slot (R133 to R140). -/
theorem exec_of_setLiteral {i : Instr} {s : State} {idx : Byte} {c : Color} (hi : setLiteral i = some (idx, c))
    (h : idx.toNat < s.inst.n) : exec i s = .next (s.stored (slot idx) (wire c)) := by
  cases i <;> simp only [setLiteral, Option.some.injEq, Prod.mk.injEq, reduceCtorEq] at hi <;> obtain ⟨rfl, rfl⟩ := hi
  case setRgb r g b => exact exec_setRgb h r g b
  case setBrgb k r g b => exact exec_setBrgb h k r g b
  case setPacked w => exact exec_setPacked h w
  case setSeq0 => exact exec_setSeq0 h
  case setSeq1 v0 => exact exec_setSeq1 h v0
  case setSeq2 v0 v1 => exact exec_setSeq2 h v0 v1
  case setSeq3 v0 v1 v2 => exact exec_setSeq3 h v0 v1 v2
  case setSeq4 v0 v1 v2 v3 => exact exec_setSeq4 h v0 v1 v2 v3

/-- Settles O31: GET finds the colour where SET stored it. -/
theorem setThenGetRespondsColour : Obligations.SetThenGetRespondsColour := by
  intro s i idx c hi h
  have hget := exec_get (s := s.stored (slot idx) (wire c)) h
  rw [stored_wire_slotColor] at hget
  exact ⟨_, _, exec_of_setLiteral hi h, hget, respond_responds _ _⟩

end Sys2Proof.Machine
end

section
/-! SUPPORT. PUT.R, PUT.G and PUT.B (41_strip_commands section 5): one byte of a slot, and one after the other (R150). -/

namespace Sys2Proof.Machine

theorem stored_byte_same (s : State) (a : Nat) (v : Byte) : (s.stored a [v]).loadByte a = v :=
  stored_loadByte_inside s a [v] (i := 0) Nat.one_pos

theorem stored_byte_other (s : State) {a x : Nat} (v : Byte) (h : x ≠ a) : (s.stored a [v]).loadByte x = s.loadByte x :=
  stored_loadByte_outside s a [v] (by simp only [List.length_singleton]; omega)

/-- A command that answers the store of one byte changes no other (R145 to R147). -/
theorem writesByte_of_exec {i : Instr} {s : State} {a : Nat} {v : Byte} (h : exec i s = .next (s.stored a [v])) :
    ∃ t, exec i s = .next t ∧ t.loadByte a = v ∧ BytesKeptOutside a 1 s t ∧ NoResponse s t ∧ KeepsControl s t :=
  ⟨_, h, stored_byte_same s a v, stored_kept s a [v], stored_noResponse s a _, stored_keepsControl s a _⟩

/-- Settles O22: the rows of the opcode table, and the byte each command stores. -/
theorem putWritesOneChannel : Obligations.PutWritesOneChannel := by
  unfold Obligations.PutWritesOneChannel
  simp only [← byte0_argOf]
  refine ⟨encoded_row 15, encoded_row 16, encoded_row 17, fun s idx v h => ?_⟩
  simp only [List.forall_mem_cons]
  exact ⟨writesByte_of_exec (exec_putR h v), writesByte_of_exec (exec_putG h v), writesByte_of_exec (exec_putB h v),
    List.forall_mem_nil _⟩

/-! ### Edits of a slot, one after the other -/

theorem KeepsControl.trans {s t u : State} (h : KeepsControl s t) (h' : KeepsControl t u) : KeepsControl s u := by
  simp only [KeepsControl] at h h' ⊢
  simp only [h', h, and_self]

/-- Nothing changed from `s` to `t` but slot `idx`, which holds `c`, and `RSP_VALID`, which is 0: what `StoresColour` says of the next
state. -/
def SlotReplaced (s t : State) (idx : Byte) (c : Color) : Prop :=
  SlotHolds t idx c.r c.g c.b ∧ BytesKeptOutside (3 * idx.toNat) 3 s t ∧ NoResponse s t ∧ KeepsControl s t

theorem SlotReplaced.slotColor {s t : State} {idx : Byte} {c : Color} (h : SlotReplaced s t idx c) : t.slotColor idx = c := by
  obtain ⟨⟨hg, hr, hb⟩, -⟩ := h
  simp only [State.slotColor, slot, hg, hr, hb]

theorem SlotReplaced.inst {s t : State} {idx : Byte} {c : Color} (h : SlotReplaced s t idx c) : t.inst = s.inst := by
  obtain ⟨-, -, -, hinst, -⟩ := h
  exact hinst

/-- Of two replacements of one slot the second stands. -/
theorem SlotReplaced.trans {s t u : State} {idx : Byte} {c c' : Color} (h : SlotReplaced s t idx c)
    (h' : SlotReplaced t u idx c') : SlotReplaced s u idx c' := by
  obtain ⟨-, hout, ⟨hrsp, -⟩, hctl⟩ := h
  obtain ⟨hslot', hout', ⟨hrsp', hvalid'⟩, hctl'⟩ := h'
  exact ⟨hslot', fun x hx => (hout' x hx).trans (hout x hx), ⟨hrsp'.trans hrsp, hvalid'⟩, hctl.trans hctl'⟩

/-- The commands `is`, one after the other, replace the colour of slot `idx` by its image under `f`, and change nothing else. -/
def EditsSlot (idx : Byte) (is : List Instr) (f : Color → Color) : Prop :=
  ∀ s : State, idx.toNat < s.inst.n → ∃ t, execAll is s = .next t ∧ SlotReplaced s t idx (f (s.slotColor idx))

theorem execAll_cons {i : Instr} {s t : State} (is : List Instr) (h : exec i s = .next t) :
    execAll (i :: is) s = execAll is t := by
  rw [execAll, h]

theorem execAll_append {is : List Instr} {s t : State} (js : List Instr) (h : execAll is s = .next t) :
    execAll (is ++ js) s = execAll js t := by
  induction is generalizing s with
  | nil =>
    obtain rfl : s = t := by simpa [execAll] using h
    rfl
  | cons i is ih =>
    cases hi : exec i s with
    | next u =>
      rw [execAll_cons is hi] at h
      rw [List.cons_append, execAll_cons _ hi, ih h]
    | fault e => simp [execAll, hi] at h
    | refused r => simp [execAll, hi] at h

/-- Edits compose in the order of the commands. -/
theorem EditsSlot.append {idx : Byte} {is js : List Instr} {f g : Color → Color} (hi : EditsSlot idx is f)
    (hj : EditsSlot idx js g) : EditsSlot idx (is ++ js) (g ∘ f) := by
  intro s h
  obtain ⟨t, ht, hst⟩ := hi s h
  obtain ⟨u, hu, htu⟩ := hj t (by rwa [hst.inst])
  rw [hst.slotColor] at htu
  exact ⟨u, by rw [execAll_append js ht, hu], hst.trans htu⟩

/-- One command that stores a byte of the slot edits the slot. -/
theorem editsSlot_of_exec {idx : Byte} {i : Instr} {a : Nat} {v : Byte} {f : Color → Color} (hlo : slot idx ≤ a)
    (hhi : a + 1 ≤ slot idx + 3) (he : ∀ s : State, idx.toNat < s.inst.n → exec i s = .next (s.stored a [v]))
    (hf : ∀ s : State, (s.stored a [v]).slotColor idx = f (s.slotColor idx)) : EditsSlot idx [i] f := by
  intro s h
  refine ⟨s.stored a [v], execAll_cons [] (he s h), ?_, fun x hx => ?_, stored_noResponse s _ _, stored_keepsControl s _ _⟩
  · rw [← hf s]
    exact ⟨rfl, rfl, rfl⟩
  · have hslot : slot idx = 3 * idx.toNat := rfl
    exact stored_byte_other s v (by omega)

theorem editsSlot_putR (idx v : Byte) : EditsSlot idx [.putR idx v] (withRed · v) := by
  refine editsSlot_of_exec (by omega) (by omega) (fun s h => exec_putR h v) fun s => ?_
  simp [State.slotColor, withRed, stored_byte_same, stored_byte_other]

theorem editsSlot_putG (idx v : Byte) : EditsSlot idx [.putG idx v] (withGreen · v) := by
  refine editsSlot_of_exec (by omega) (by omega) (fun s h => exec_putG h v) fun s => ?_
  simp [State.slotColor, withGreen, stored_byte_same, stored_byte_other]

theorem editsSlot_putB (idx v : Byte) : EditsSlot idx [.putB idx v] (withBlue · v) := by
  refine editsSlot_of_exec (by omega) (by omega) (fun s h => exec_putB h v) fun s => ?_
  simp [State.slotColor, withBlue, stored_byte_same, stored_byte_other]

/-- The three edits, in any order, leave the colour of the three channels whatever the slot held. -/
theorem editsSlot_puts (idx r g b : Byte) {order : List Instr}
    (h : order.Perm [.putR idx r, .putG idx g, .putB idx b]) : EditsSlot idx order fun _ => mkRGB r g b := by
  have hr := editsSlot_putR idx r
  have hg := editsSlot_putG idx g
  have hb := editsSlot_putB idx b
  have hmem := List.mem_permutations'.mpr h
  simp only [List.permutations', List.permutations'Aux, List.flatMap_cons, List.flatMap_nil, List.map_cons, List.map_nil,
    List.cons_append, List.nil_append, List.append_nil, List.mem_cons, List.not_mem_nil, or_false] at hmem
  rcases hmem with rfl | rfl | rfl | rfl | rfl | rfl
  · exact (hr.append hg).append hb
  · exact (hg.append hr).append hb
  · exact (hg.append hb).append hr
  · exact (hr.append hb).append hg
  · exact (hb.append hr).append hg
  · exact (hb.append hg).append hr

/-- Settles O32: after the three edits and after SET.RGB the slot holds one colour, and every other byte is that of the state before. -/
theorem putsInAnyOrderEqualSetRgb : Obligations.PutsInAnyOrderEqualSetRgb := by
  intro s idx r g b h order horder
  obtain ⟨t, ht, hslot, hout, hresp, hctl⟩ := editsSlot_puts idx r g b horder s h
  obtain ⟨u, hu, hslot', hout', -, -⟩ := storesColour_of_exec (exec_setRgb h r g b)
  exact ⟨t, u, ht, hu, bytesKept_of_slotHolds hslot hslot' hout hout', hslot, hout, hresp, hctl⟩

end Sys2Proof.Machine
end

section
/-! SUPPORT. What holds of every command: that it completes, what it writes, and that it does not read `DIR` (R130, R150). -/

namespace Sys2Proof.Machine

/-- Settles O26: a valid index is all that a command asks for. -/
theorem everyWellFormedCommandCompletes : Obligations.EveryWellFormedCommandCompletes := by
  intro s i h
  cases hi : i.index? with
  | none =>
    cases i with
    | beginStrip => exact ⟨_, exec_begin s⟩
    | size => exact ⟨_, exec_size s⟩
    | commit => exact ⟨_, exec_commit s⟩
    | _ => simp [Instr.index?] at hi
  | some idx =>
    have hn : idx.toNat < s.inst.n := by simpa [WellFormed, hi] using h
    rcases exec_indexed s hi hn with ⟨-, a, v, -, -, he⟩ | ⟨-, v, he⟩
    · exact ⟨_, he⟩
    · exact ⟨_, he⟩

/-- A command other than BEGIN and COMMIT writes `BUF` and the response alone (R130). -/
theorem exec_keepsControl {i : Instr} {s t : State} (hbegin : i ≠ .beginStrip) (hcommit : i ≠ .commit)
    (h : exec i s = .next t) : KeepsControl s t := by
  rcases exec_cases h with ⟨hb, -⟩ | ⟨hc, -⟩ | ⟨-, -, -, v, rfl⟩ | ⟨-, -, -, idx, a, v, -, -, -, -, rfl⟩
  · exact absurd hb hbegin
  · exact absurd hc hcommit
  · exact respond_keepsControl s v
  · exact stored_keepsControl s a v

/-- Settles O28: BEGIN writes `DIR`, COMMIT the rest, and no other command any of them. -/
theorem onlyBeginAndCommitWriteControl : Obligations.OnlyBeginAndCommitWriteControl := by
  intro s t i h
  by_cases hbegin : i = .beginStrip
  · subst hbegin
    obtain rfl : s.begun = t := by simpa [exec_begin, State.begun] using h
    exact ⟨fun hne => absurd rfl hne, fun _ => ⟨rfl, rfl, rfl, rfl, rfl, rfl, rfl, rfl, rfl⟩, rfl, rfl, rfl, rfl, rfl⟩
  by_cases hcommit : i = .commit
  · subst hcommit
    obtain rfl : (s.enterCritical.startFrame (s.loadByte 0)).noResponse = t := by simpa [exec_commit] using h
    exact ⟨fun _ => rfl, fun hne => absurd rfl hne, rfl, rfl, rfl, rfl, rfl⟩
  obtain ⟨hinst, hedge, hkey, hdir, hdout, hphase, hptr, hcnt, hbitn, hshr, htcnt, hsaved, hie, hrstQ, hinputs⟩ :=
    exec_keepsControl hbegin hcommit h
  exact ⟨fun _ => hdir, fun _ => ⟨hdout, hphase, hptr, hcnt, hbitn, hshr, htcnt, hsaved, hie⟩, hinst, hedge, hkey, hrstQ,
    hinputs⟩

/-- Settles O30: what a command with an index stores lies in its slot. -/
theorem commandsKeepOtherSlots : Obligations.CommandsKeepOtherSlots := by
  intro s t i idx hi h x hx
  rcases exec_cases h with ⟨rfl, -⟩ | ⟨rfl, -⟩ | ⟨-, -, -, v, rfl⟩ | ⟨-, -, -, j, a, v, hj, -, ha, hv, rfl⟩
  · cases hi
  · cases hi
  · exact respond_kept s v x
  · obtain rfl : j = idx := Option.some.inj (hj.symm.trans hi)
    have hslot : slot j = 3 * j.toNat := rfl
    exact stored_loadByte_outside s a v (by omega)

/-- The state with another value in `DIR`, which is `CFG` (R22). -/
def State.withDir (d : Bool) (s : State) : State := { s with dir := d }

theorem offPath_withDir (d : Bool) : OffPath (State.withDir d) :=
  ⟨fun _ => rfl, fun _ _ => rfl, fun _ _ _ => rfl, fun _ _ => rfl⟩

/-- BEGIN sets `DIR` whatever it was (R131). -/
theorem exec_begin_withDir (d : Bool) (s : State) :
    exec .beginStrip (s.withDir d) = mapNext (State.withDir true) (exec .beginStrip s) := by
  rw [exec_begin, exec_begin, mapNext_next]
  rfl

/-- Every other command passes it on unread. -/
theorem exec_withDir (d : Bool) (s : State) {i : Instr} (hbegin : i ≠ .beginStrip) :
    exec i (s.withDir d) = mapNext (State.withDir d) (exec i s) := by
  by_cases hcommit : i = .commit
  · subst hcommit
    rw [exec_commit, exec_commit, mapNext_next]
    rfl
  · exact (offPath_withDir d).exec s hbegin hcommit

/-- Settles O29: BEGIN sets `DIR` in both states, and any other command leaves it as each state has it. -/
theorem commandsIgnoreConfigured : Obligations.CommandsIgnoreConfigured := by
  intro s d i
  have hmap : exec i (s.withDir d) = mapNext (State.withDir (if i = .beginStrip then true else d)) (exec i s) := by
    split
    · next hbegin => rw [hbegin, exec_begin_withDir]
    · next hbegin => exact exec_withDir d s hbegin
  refine hmap.trans ?_
  cases exec i s <;> rfl

end Sys2Proof.Machine
end

section
/-! SUPPORT. The frame of a COMMIT over its whole length (R180, R185): the state in each cycle after the accept edge, the state its last
edge leaves, and the trace of `DOUT` as a list of pulses. -/

namespace Sys2Proof.Machine

/-! ### The cycles of a frame -/

/-- The closed form by bit period and cycle: high for the high time of the period's bit (R172, R180). -/
theorem waveform_at (s : State) (q : Nat) {r : Nat} (hr : r < s.inst.tBit) :
    s.waveform (q * s.inst.tBit + r) = decide (r < s.inst.highCycles (s.frameBit q)) := by
  have hcycle : (q * s.inst.tBit + r) % s.inst.tBit = r := by
    rw [Nat.mul_add_mod_self_right, Nat.mod_eq_of_lt hr]
  have hperiod : (q * s.inst.tBit + r) / s.inst.tBit = q := by
    rw [Nat.mul_comm, Nat.mul_add_div (Nat.zero_lt_of_lt hr), Nat.div_eq_of_lt hr, Nat.add_zero]
  rw [State.waveform, hcycle, hperiod]

/-- The pad follows the closed form. -/
theorem FrameCycle.dout {s u : State} {c : Nat} (h : FrameCycle s c u) : u.dout = s.waveform c := by
  obtain ⟨q, r, rfl, h⟩ := h
  rw [waveform_at s q h.cycle]
  by_cases hr : r < s.inst.highCycles (s.frameBit q)
  · rw [(h.high hr).2, decide_eq_true hr]
  · rw [(h.low (Nat.not_lt.mp hr)).2, decide_eq_false hr]

/-- Interrupts are masked in every cycle (R216). -/
theorem FrameCycle.ie {s u : State} {c : Nat} (h : FrameCycle s c u) : u.ie = false := by
  obtain ⟨q, r, -, h⟩ := h
  exact h.ie

theorem FrameCycle.savedIe {s u : State} {c : Nat} (h : FrameCycle s c u) : u.savedIe = s.ie := by
  obtain ⟨q, r, -, h⟩ := h
  exact h.savedIe

/-- No command is accepted while a frame runs (R37). -/
theorem FrameCycle.cmdReady {s u : State} {c : Nat} (h : FrameCycle s c u) : u.cmdReady = false := by
  simp [State.cmdReady, h.busy]

theorem FrameCycle.phase_ne_idle {s u : State} {c : Nat} (h : FrameCycle s c u) : u.phase ≠ .idle := by
  simpa [State.busy] using h.busy

/-- The state `t` is the one the frame of a COMMIT, accepted at the edge after `s`, leaves: idle and ready, the pad low, the interrupt
enable restored (R177, R217), `BUF` and `DIR` as they were. -/
structure FrameDone (s t : State) : Prop where
  dout : t.dout = false
  phase : t.phase = .idle
  ie : t.ie = s.ie
  cmdReady : t.cmdReady = true
  bytes : BytesKept s t
  dir : t.dir = s.dir

/-- The edge after the last cycle ends the frame. -/
theorem FrameCycle.last {s u : State} {c : Nat} (h : FrameCycle s c u) (hc : c + 1 = 24 * s.inst.n * s.inst.tBit)
    (hrst : u.input.rst = false) : ∃ t, step u = .next t ∧ FrameDone s t := by
  obtain ⟨hstep, hlow⟩ := h.finish hc hrst
  have hready : (sequencerEnd u.advance).cmdReady = true := by
    simp [State.cmdReady, State.busy, sequencerEnd, hrst]
  exact ⟨_, hstep, hlow, rfl, h.savedIe, hready, h.loadByte, h.dir⟩

/-! ### The run from the accept edge -/

theorem runSteps_succ_of_step {s t : State} (h : step s = .next t) (k : Nat) : runSteps (k + 1) s = runSteps k t := by
  rw [runSteps, h]

theorem runSteps_succ_of_runSteps {s t : State} {k : Nat} (h : runSteps k s = .next t) : runSteps (k + 1) s = step t := by
  rw [runSteps_last, h]

section Commit

variable {s : State} (ha : s.accepts = true) (hd : decode s.input.cmd = .ok .commit)
  (hn : s.noResetFor (24 * s.inst.n * s.inst.tBit + 1) = true)
include ha hd hn

/-- `c` edges after the accept edge of a COMMIT the block stands in cycle `c` of its frame, up to the frame's end. -/
theorem runSteps_frameCycle (c : Nat) (hc : c < 24 * s.inst.n * s.inst.tBit) :
    ∃ t, runSteps (c + 1) s = .next t ∧ FrameCycle s c t := by
  induction c with
  | zero =>
    obtain ⟨t, ht, hf⟩ := frameAt_start ha hd
    exact ⟨t, by rw [runSteps_succ_of_step ht, runSteps], 0, 0, by simp, hf⟩
  | succ c ih =>
    obtain ⟨u, hu, hf⟩ := ih (by omega)
    obtain ⟨t, ht, hf'⟩ := hf.next hc (noReset_at hn (by omega) hu)
    exact ⟨t, (runSteps_succ_of_runSteps hu).trans ht, hf'⟩

/-- `24*N*TBIT` edges after the accept edge the frame is over (R181). -/
theorem runSteps_frameDone : ∃ t, runSteps (24 * s.inst.n * s.inst.tBit + 1) s = .next t ∧ FrameDone s t := by
  have hpos : 0 < 24 * s.inst.n * s.inst.tBit :=
    Nat.mul_pos (Nat.mul_pos (by decide) s.inst.n_pos) (Nat.zero_lt_of_lt s.inst.t1h_lt)
  obtain ⟨c, hc⟩ : ∃ c, c + 1 = 24 * s.inst.n * s.inst.tBit := ⟨_, Nat.succ_pred_eq_of_pos hpos⟩
  obtain ⟨u, hu, hf⟩ := runSteps_frameCycle ha hd hn c (by omega)
  obtain ⟨t, ht, hdone⟩ := hf.last hc (noReset_at hn (by omega) hu)
  rw [← hc]
  exact ⟨t, (runSteps_succ_of_runSteps hu).trans ht, hdone⟩

end Commit

/-- Settles O39: each cycle of the frame has the closed form, by induction on the edges since the accept edge, and R177's edge
follows the last. -/
theorem commitWaveformClosedForm : Obligations.CommitWaveformClosedForm := by
  intro s ha hd hn
  constructor
  · intro c hc
    obtain ⟨t, ht, hf⟩ := runSteps_frameCycle ha hd hn c hc
    refine ⟨t, ht, hf.dout, hf.phase_ne_idle, hf.ie, hf.cmdReady, hf.loadByte, hf.dir, ?_⟩
    rw [State.pad, hf.dir]
  · obtain ⟨t, ht, hdone⟩ := runSteps_frameDone ha hd hn
    exact ⟨t, ht, hdone.dout, hdone.phase, hdone.ie, hdone.cmdReady, hdone.bytes, hdone.dir⟩

/-! ### The trace of a frame -/

theorem traceOf_succ_of_step {α : Type} (f : State → α) {s t : State} (h : step s = .next t) (k : Nat) :
    traceOf f (k + 1) s = f s :: traceOf f k t := by
  rw [traceOf, h]

/-- A trace is known from its values cycle by cycle. -/
theorem traceOf_eq_map {α : Type} {f : State → α} {w : Nat → α} (k : Nat) {s : State}
    (h : ∀ c < k, ∃ t, runSteps c s = .next t ∧ f t = w c) : traceOf f k s = (List.range k).map w := by
  induction k generalizing s w with
  | zero => rfl
  | succ k ih =>
    have hhead : f s = w 0 := by
      obtain ⟨t, ht, hw⟩ := h 0 (Nat.succ_pos k)
      obtain rfl := Host.Outcome.next.inj ht
      exact hw
    rw [List.range_succ_eq_map, List.map_cons, List.map_map, ← hhead]
    cases k with
    | zero => rw [traceOf]; cases step s <;> rfl
    | succ k =>
      obtain ⟨t, ht, -⟩ := h 1 (by omega)
      have hstep : step s = .next t := (runSteps_last 0 s).symm.trans ht
      rw [traceOf_succ_of_step f hstep, ih (w := w ∘ Nat.succ)]
      intro c hc
      rw [← runSteps_succ_of_step hstep]
      exact h (c + 1) (by omega)

/-- Numbers below a product in order, by quotient and remainder. -/
theorem range_mul_eq_flatMap (a b : Nat) :
    List.range (a * b) = (List.range a).flatMap fun q => (List.range b).map (q * b + ·) := by
  induction a with
  | zero => simp
  | succ a ih => rw [Nat.succ_mul, List.range_add, ih, List.range_succ, List.flatMap_append, List.flatMap_singleton]

/-- Counting to `b`, the numbers below `a` come first. -/
theorem map_decide_lt_range {a b : Nat} (h : a ≤ b) :
    (List.range b).map (fun r => decide (r < a)) = List.replicate a true ++ List.replicate (b - a) false := by
  obtain ⟨d, rfl⟩ := Nat.exists_eq_add_of_le h
  have hlow : (List.range a).map (fun r => decide (r < a)) = List.replicate a true := by
    simpa using List.map_eq_replicate_iff.mpr fun r hr => decide_eq_true (List.mem_range.mp hr)
  have hhigh : ((List.range d).map (a + ·)).map (fun r => decide (r < a)) = List.replicate d false := by
    simp [Function.comp_def]
  rw [List.range_add, List.map_append, hlow, hhigh, Nat.add_sub_cancel_left]

/-- One period of the waveform is the pulse of its bit (R82, R180). -/
theorem map_waveform_period (s : State) (q : Nat) :
    (List.range s.inst.tBit).map (fun r => s.waveform (q * s.inst.tBit + r)) = pulseLevels (symbol s.inst (s.frameBit q)) := by
  have hlt := highCycles_lt s.inst (s.frameBit q)
  rw [pulseLevels, symbol, ← map_decide_lt_range hlt.le]
  exact List.map_congr_left fun r hr => waveform_at s q (List.mem_range.mp hr)

theorem frameLevels_eq (s : State) :
    s.frameLevels = (List.range (24 * s.inst.n)).flatMap fun q => pulseLevels (symbol s.inst (s.frameBit q)) := by
  rw [State.frameLevels, State.pulses, State.frameBits, List.flatMap_map, List.flatMap_map]

/-- The waveform (R180) and the pulse list (R185) are one signal. -/
theorem map_waveform_eq_frameLevels (s : State) :
    (List.range (24 * s.inst.n * s.inst.tBit)).map s.waveform = s.frameLevels := by
  rw [range_mul_eq_flatMap, List.map_flatMap, frameLevels_eq]
  refine List.flatMap_congr fun q _ => ?_
  rw [List.map_map, ← map_waveform_period]
  rfl

/-- Settles O40: cycle by cycle the trace is the waveform of R180, and that is the pulse list. -/
theorem commitTraceIsThePulseList : Obligations.CommitTraceIsThePulseList := by
  intro s ha hd hn
  obtain ⟨t, ht, -⟩ := frameAt_start ha hd
  have htrace : traceOf State.dout (24 * s.inst.n * s.inst.tBit) t = s.frameLevels := by
    rw [← map_waveform_eq_frameLevels]
    refine traceOf_eq_map _ fun c hc => ?_
    obtain ⟨u, hu, hf⟩ := runSteps_frameCycle ha hd hn c hc
    exact ⟨u, (runSteps_succ_of_step ht c).symm.trans hu, hf.dout⟩
  rw [traceOf_succ_of_step _ ht, List.tail_cons, htrace, frameLevels_eq]
  rfl

end Sys2Proof.Machine
end

section
/-! SUPPORT. The edges of a frame, one rule each (R171, R174 to R177): the whole next state. -/

namespace Sys2Proof.Machine

/-- Settles O33: the values are those of R171, and `NBYTES` fits `CNT`. -/
theorem commitAcceptEdge : Obligations.CommitAcceptEdge := by
  intro s
  have hcnt : (BitVec.ofNat 8 s.inst.nbytes).toNat = 3 * s.inst.n :=
    (BitVec.toNat_ofNat _ _).trans (Nat.mod_eq_of_lt s.inst.n_fits)
  exact ⟨_, exec_commit s, rfl, rfl, rfl, hcnt, rfl, rfl, rfl, rfl, rfl, rfl, rfl, rfl, fun _ => rfl, rfl, rfl, rfl, rfl, rfl, rfl⟩

/-! ### What the invariant adds -/

/-- In HIGH another cycle of the bit period is still to come (R174). -/
theorem tcnt_succ_lt_of_high {s : State} (h : s.Inv) (hp : s.phase = .high) : s.tcnt.toNat + 1 < s.inst.tBit := by
  obtain ⟨-, -, -, hhigh, -⟩ := (inv_iff s).mp h
  have hth : s.tcnt.toNat < s.th := hhigh hp
  have hlt : s.th < s.inst.tBit := highCycles_lt s.inst _
  omega

/-- In LOW the pad is low (R42(b)). -/
theorem dout_of_low {s : State} (h : s.Inv) (hp : s.phase = .low) : s.dout = false := by
  obtain ⟨-, hdout, -⟩ := (inv_iff s).mp h
  simpa [hp] using hdout

/-- Where another byte is left to send, it lies inside the buffer (R176). -/
theorem ptr_succ_lt_of_cnt_ne_one {s : State} (h : s.Inv) (hb : s.busy = true) (hc : s.cnt ≠ 1) :
    s.ptr.toNat + 1 < 3 * s.inst.n ∧ 1 < s.cnt.toNat := by
  obtain ⟨-, -, hframe, -⟩ := (inv_iff s).mp h
  obtain ⟨hsum, hcnt, -⟩ := hframe hb
  have hne : s.cnt.toNat ≠ 1 := fun e => hc (BitVec.eq_of_toNat_eq e)
  have hN : s.inst.nbytes = 3 * s.inst.n := rfl
  omega

/-! ### The steps -/

/-- An edge in HIGH is R174's. -/
theorem step_of_high {s : State} (hr : s.input.rst = false) (hp : s.phase = .high) :
    step s = .next (sequencerHigh s.advance) := by
  rw [step_of_busy hr ((busy_iff s).mpr (.inl hp)), sequencerStep_high (s := s.advance) hp]

/-- An edge in LOW is the sequencer's. -/
theorem step_of_low {s : State} (hr : s.input.rst = false) (hp : s.phase = .low) : step s = sequencerStep s.advance :=
  step_of_busy hr ((busy_iff s).mpr (.inr hp))

/-- Settles O34, by whether the high time ends at this edge. -/
theorem sequencerStepInHigh : Obligations.SequencerStepInHigh := by
  intro s hr hp th
  refine ⟨?_, fun h => tcnt_succ_lt_of_high h hp⟩
  rw [step_of_high hr hp]
  by_cases he : s.tcnt.toNat + 1 = th
  · rw [seqHigh_of_eq (s := s.advance) he, advance_of_noReset hr, if_pos he, if_pos he]
    rfl
  · rw [seqHigh_of_ne (s := s.advance) he, advance_of_noReset hr, if_neg he, if_neg he, ← hp]
    rfl

/-- Settles O35. -/
theorem sequencerStepInLow : Obligations.SequencerStepInLow := by
  intro s hr hp ht
  refine ⟨?_, fun h => dout_of_low h hp⟩
  rw [step_of_low hr hp, sequencerStep_low (s := s.advance) hp ht, advance_of_noReset hr]
  rfl

/-- Settles O36, by whether the byte has another bit; the byte load is in range under the invariant. -/
theorem sequencerStepToNextBit : Obligations.SequencerStepToNextBit := by
  intro s hr hp ht
  have hlast : ¬ s.tcnt.toNat + 1 < s.inst.tBit := ht.not_lt
  refine ⟨fun hb => ?_, fun hb hc h => ?_⟩
  · have hshift : s.shr <<< 1 = s.shr.extractLsb' 0 7 ++ (0 : BitVec 1) := BitVec.shiftLeft_eq_concat_of_lt (by decide)
    rw [step_of_low hr hp, sequencerStep_bit (s := s.advance) hp hlast hb, advance_of_noReset hr, ← hshift]
    rfl
  · obtain ⟨hptr, hcnt⟩ := ptr_succ_lt_of_cnt_ne_one h ((busy_iff s).mpr (.inr hp)) hc
    refine ⟨hptr, hcnt, ?_⟩
    rw [step_of_low hr hp, sequencerStep_byte (s := s.advance) hp hlast hb hc hptr, advance_of_noReset hr]
    rfl

/-- Settles O37. -/
theorem sequencerStepAtFrameEnd : Obligations.SequencerStepAtFrameEnd := by
  intro s hr hp ht hb hc
  refine ⟨?_, fun h => dout_of_low h hp⟩
  rw [step_of_frameEnds ((frameEnds_iff s).mpr ⟨hr, hp, ht.ge, hb, hc⟩), advance_of_noReset hr]
  rfl

end Sys2Proof.Machine
end

section
/-! SUPPORT. The interrupt enable over runs (R215 to R218): while the environment neither resets nor writes `IE`, no edge changes the
enable as the program outside sees it, because a frame keeps it in `SAVED_IE`. -/

namespace Sys2Proof.Machine

/-- The environment neither resets the block nor writes `IE` at the edge. -/
def EdgeInput.leavesIe (i : EdgeInput) : Bool := !i.rst && i.ieWrite == none

theorem EdgeInput.leavesIe_iff (i : EdgeInput) : i.leavesIe = true ↔ i.rst = false ∧ i.ieWrite = none := by
  simp [EdgeInput.leavesIe]

/-! ### The enable the program sees -/

theorem programIe_of_busy {s : State} (hb : s.busy = true) : s.programIe = s.savedIe := if_pos hb

theorem programIe_of_idle {s : State} (hb : s.busy = false) : s.programIe = s.ie := by
  rw [State.programIe, hb]
  rfl

/-- A step of a frame holds the enable in `SAVED_IE`, and the last one gives it back (R217). -/
theorem sequencerStep_programIe {s t : State} (hb : s.busy = true) (h : sequencerStep s = .next t) :
    t.programIe = s.programIe := by
  rw [programIe_of_busy hb]
  rcases sequencerStep_cases hb h with ⟨hp, rfl⟩ | ⟨hp, -, rfl⟩ | ⟨-, -, -, rfl⟩ | ⟨-, -, -, -, -, rfl⟩ | ⟨-, -, -, -, rfl⟩
  · by_cases hfall : s.tcnt.toNat + 1 = s.th
    · rw [seqHigh_of_eq hfall]
      rfl
    · rw [seqHigh_of_ne hfall]
      exact programIe_of_busy hb
  · exact programIe_of_busy hb
  · rfl
  · rfl
  · rfl

/-- COMMIT puts the enable in `SAVED_IE` (R215); no other command writes it (R130). -/
theorem exec_programIe {i : Instr} {s t : State} (hb : s.busy = false) (h : exec i s = .next t) :
    t.programIe = s.programIe := by
  rw [programIe_of_idle hb]
  rcases exec_cases h with ⟨-, rfl⟩ | ⟨-, rfl⟩ | ⟨-, -, -, v, rfl⟩ | ⟨-, -, -, idx, a, v, -, -, -, -, rfl⟩
  · exact programIe_of_idle hb
  · rfl
  · exact programIe_of_idle hb
  · exact programIe_of_idle hb

theorem controllerIe_of_no_write {s : State} (hw : s.input.ieWrite = none) (t : State) : controllerIe s t = t := by
  rcases controllerIe_cases s t with h | h
  · exact h
  · rw [h, hw]
    rfl

/-- The edge itself writes neither `IE`, `SAVED_IE` nor `PHASE`. -/
theorem advance_programIe (s : State) : s.advance.programIe = s.programIe := rfl

theorem step_programIe {s t : State} (hi : s.input.leavesIe = true) (hs : step s = .next t) : t.programIe = s.programIe := by
  obtain ⟨hr, hw⟩ := (EdgeInput.leavesIe_iff _).mp hi
  rw [← advance_programIe s]
  rcases step_cases hs with ⟨hr', -⟩ | ⟨-, hb, hseq⟩ | ⟨i, u, ha, -, hu, rfl⟩ | ⟨-, hb, -, rfl⟩
  · simp [hr] at hr'
  · exact sequencerStep_programIe (s := s.advance) hb hseq
  · obtain ⟨-, -, -, hb⟩ := (accepts_iff s).mp ha
    rw [controllerIe_of_no_write hw]
    exact exec_programIe (s := s.advance) hb hu
  · rw [controllerIe_of_no_write hw]
    rfl

/-! ### Over a run -/

/-- What holds of the coming `k + 1` samples, and of an edge at which the environment does nothing, holds of the next edge's input and
of the `k` samples after it. -/
theorem all_take_inputs_succ {p : EdgeInput → Bool} (hquiet : p .quiet = true) {s : State} {k : Nat}
    (h : (s.inputs.take (k + 1)).all p = true) : p s.input = true ∧ (s.inputs.tail.take k).all p = true := by
  unfold State.input
  cases hl : s.inputs with
  | nil => exact ⟨hquiet, by simp⟩
  | cons i rest => simpa [hl] using h

/-- What no edge with such an input changes is at the end of a run of them what it was at the start. -/
theorem runSteps_preserves {α : Type} {f : State → α} {p : EdgeInput → Bool} (hquiet : p .quiet = true)
    (hstep : ∀ s t, p s.input = true → step s = .next t → f t = f s) (k : Nat) {s t : State}
    (hp : (s.inputs.take k).all p = true) (h : runSteps k s = .next t) : f t = f s := by
  induction k generalizing s with
  | zero => rw [Host.Outcome.next.inj h]
  | succ k ih =>
    obtain ⟨hnow, hrest⟩ := all_take_inputs_succ hquiet hp
    cases hs : step s with
    | next u =>
      rw [runSteps_succ_of_step hs] at h
      rw [← step_inputs hs] at hrest
      rw [ih hrest h, hstep s u hnow hs]
    | fault f => simp [runSteps, hs] at h
    | refused r => simp [runSteps, hs] at h

/-- Settles O41: the enable the program sees is kept by every edge of the run, and while idle it is `IE`. -/
theorem commitsRestoreInterruptEnable : Obligations.CommitsRestoreInterruptEnable := by
  intro k s t hreset hwrite hs ht hrun
  have hleave : (s.inputs.take k).all EdgeInput.leavesIe = true := by
    rw [State.noResetFor, List.all_eq_true] at hreset
    rw [List.all_eq_true] at hwrite ⊢
    exact fun i hi => Bool.and_eq_true_iff.mpr ⟨hreset i hi, hwrite i hi⟩
  have hkept : t.programIe = s.programIe := runSteps_preserves rfl (fun _ _ => step_programIe) k hleave hrun
  rwa [programIe_of_idle ((idle_iff t).mpr ht), programIe_of_idle ((idle_iff s).mpr hs)] at hkept

end Sys2Proof.Machine
end

section
/-! SUPPORT. That the block raises no exception (R210): what stops a command, that under the invariant nothing stops a frame, and so what
stops an edge. -/

namespace Sys2Proof.Machine

/-- A command completes, or is refused for an index that names no LED (R55). -/
theorem exec_completes_or_refused (i : Instr) (s : State) : (∃ t, exec i s = .next t) ∨
    ∃ idx, i.index? = some idx ∧ s.inst.n ≤ idx.toNat ∧ exec i s = .refused (.indexOutOfRange i.mnemonic idx) := by
  cases hw : WellFormed s.inst i with
  | true => exact .inl (everyWellFormedCommandCompletes s i hw)
  | false =>
    cases hi : i.index? with
    | none => simp [WellFormed, hi] at hw
    | some idx =>
      have hn : s.inst.n ≤ idx.toNat := by simpa [WellFormed, hi] using hw
      exact .inr ⟨idx, rfl, hn, exec_refused hi hn.not_gt⟩

/-- Under the invariant every byte a frame still has to load lies inside the buffer, so every sequencer step completes (R57, R176). -/
theorem sequencerStep_completes {s : State} (h : s.Inv) (hb : s.busy = true) : ∃ t, sequencerStep s = .next t := by
  rcases (busy_iff s).mp hb with hp | hp
  · exact ⟨_, sequencerStep_high hp⟩
  by_cases ht : s.tcnt.toNat + 1 < s.inst.tBit
  · exact ⟨_, sequencerStep_low hp ht⟩
  by_cases hbit : s.bitn = 0
  · by_cases hc : s.cnt = 1
    · exact ⟨_, sequencerStep_end hp ht hbit hc⟩
    · obtain ⟨hptr, -⟩ := ptr_succ_lt_of_cnt_ne_one h hb hc
      exact ⟨_, sequencerStep_byte hp ht hbit hc hptr⟩
  · exact ⟨_, sequencerStep_bit hp ht hbit⟩

/-- An accept edge completes, or is refused for a reserved word (R73) or for an index that names no LED (R55). -/
theorem step_accept_outcome {s : State} (ha : s.accepts = true) :
    (∃ t, step s = .next t) ∨
    ((∃ e, decode s.input.cmd = .error e) ∧ step s = .refused (.reservedWord s.input.cmd)) ∨
    ∃ i idx, decode s.input.cmd = .ok i ∧ i.index? = some idx ∧ s.inst.n ≤ idx.toNat ∧
      step s = .refused (.indexOutOfRange i.mnemonic idx) := by
  cases hd : decode s.input.cmd with
  | error e => exact .inr (.inl ⟨⟨e, rfl⟩, step_of_reserved ha hd⟩)
  | ok i =>
    rw [step_of_command ha hd]
    rcases exec_completes_or_refused i s.advance with ⟨t, he⟩ | ⟨idx, hi, hn, he⟩ <;> rw [he]
    · exact .inl ⟨_, rfl⟩
    · exact .inr (.inr ⟨i, idx, rfl, hi, hn, rfl⟩)

/-- Under the invariant every other edge completes: a reset, a step of a frame, an edge with nothing to do (R221). -/
theorem step_completes_of_not_accepts {s : State} (h : s.Inv) (ha : s.accepts = false) : ∃ t, step s = .next t := by
  cases hr : s.input.rst with
  | true => exact ⟨_, step_of_reset hr⟩
  | false =>
    cases hb : s.busy with
    | true =>
      rw [step_of_busy hr hb]
      exact sequencerStep_completes (inv_advance h hr) hb
    | false => exact ⟨_, step_of_quiet hr hb ha⟩

/-- Settles O54, by whether the edge is an accept edge. -/
theorem stepsNeverFaultUnderTheInvariant : Obligations.StepsNeverFaultUnderTheInvariant := by
  intro s h
  cases ha : s.accepts with
  | false =>
    obtain ⟨t, ht⟩ := step_completes_of_not_accepts h ha
    simp [ht]
  | true =>
    rcases step_accept_outcome ha with ⟨t, ht⟩ | ⟨he, ht⟩ | ⟨i, idx, hd, hi, hn, ht⟩
    · simp [ht]
    · exact ⟨by simp [ht], fun _ _ => ⟨rfl, .inl ((reserved_iff_matches_no_row _).mp he)⟩⟩
    · exact ⟨by simp [ht], fun _ _ => ⟨rfl, .inr ⟨i, idx, hd, hi, hn⟩⟩⟩

end Sys2Proof.Machine
end

section
/-! SUPPORT. Reset edges and `cmd_ready` (R37, R230, R233), and what holds from BEGIN until a reset (R236). -/

namespace Sys2Proof.Machine

/-! ### The edges about a reset -/

theorem cmdReady_iff (s : State) : s.cmdReady = true ↔ s.rstQ = false ∧ s.phase = .idle := by
  simp [State.cmdReady, idle_iff]

/-- After every edge `cmd_ready` follows the sample of `rst` and the phase (R37, R230). -/
theorem cmdReady_iff_of_step {s t : State} (h : step s = .next t) :
    t.cmdReady = true ↔ s.input.rst = false ∧ t.phase = .idle := by
  rw [cmdReady_iff, (step_sameClock h).rstQ, State.advance_rstQ]

/-- The controller's part of an edge is a write of `IE`, an empty one where it may not write (R16, log 11). -/
theorem exists_controllerIe_eq_writeIe (s t : State) : ∃ w, controllerIe s t = t.writeIe w := by
  rcases controllerIe_cases s t with h | h
  · exact ⟨none, h⟩
  · exact ⟨_, h⟩

/-- A reset that cuts no frame leaves `IE` to the controller (R16, R35, R230). -/
theorem ie_of_reset_idle {s : State} (hp : s.phase = .idle) :
    (controllerIe s s.advance.takeReset).ie = s.input.ieWrite.getD s.ie := by
  have hb : s.busy = false := (idle_iff s).mpr hp
  rw [controllerIe_of_idle hb (t := s.advance.takeReset) rfl, State.writeIe_ie, State.takeReset_ie, advance_busy, hb]
  rfl

/-- The first edge without a reset accepts nothing, and makes the port ready (R37, R230). -/
theorem step_ready_after_reset {t : State} (hq : t.rstQ = true) (hp : t.phase = .idle) (hr : t.input.rst = false) :
    ∃ u, step t = .next u ∧ u.cmdReady = true ∧ u.phase = .idle ∧ u.rspValid = false := by
  have hstep := quietEdgeClearsResponseValid t hr hp (.inr hq)
  exact ⟨_, hstep, (cmdReady_iff_of_step hstep).mpr ⟨hr, hp⟩, hp, rfl⟩

/-- Settles O43: what a reset leaves, with the controller's write of `IE` at most; the edge after it is a quiet one. -/
theorem resetEdge : Obligations.ResetEdge := by
  refine ⟨fun s hr => ⟨_, step_of_reset hr, ?_⟩, fun s t => cmdReady_iff_of_step⟩
  have hie : s.phase = .idle → _ := ie_of_reset_idle
  obtain ⟨w, hw⟩ := exists_controllerIe_eq_writeIe s s.advance.takeReset
  rw [hw] at hie ⊢
  have hready : (s.advance.takeReset.writeIe w).cmdReady = false := by simp [State.cmdReady, hr]
  exact ⟨rfl, rfl, rfl, rfl, hready, rfl, rfl, rfl, rfl, hie, step_ready_after_reset hr rfl⟩

/-! ### The bytes that have a value -/

theorem bufDefined_iff (s : State) : s.bufDefined = true ↔ ∀ a < s.inst.nbytes, (s.buf.read a).isSome = true := by
  simp [State.bufDefined]

/-- A store unlists no address. -/
theorem Memory.isSome_read_writeBytes {m : Memory} (a : Nat) (vs : List Byte) {x : Nat} (h : (m.read x).isSome = true) :
    ((m.writeBytes a vs).read x).isSome = true := by
  by_cases hx : x < a ∨ a + vs.length ≤ x
  · rwa [Memory.read_writeBytes_outside _ _ _ hx]
  · obtain ⟨i, rfl⟩ : ∃ i, x = a + i := Nat.exists_eq_add_of_le (by omega)
    rw [Memory.read_writeBytes_inside _ _ _ (by omega)]
    rfl

theorem stored_bufDefined {s : State} (a : Nat) (v : List Byte) (h : s.bufDefined = true) :
    (s.stored a v).bufDefined = true := by
  rw [bufDefined_iff] at h ⊢
  exact fun x hx => Memory.isSome_read_writeBytes a v (h x hx)

/-- BEGIN gives every byte of `BUF` a value (R131). -/
theorem begun_bufDefined (s : State) : s.begun.bufDefined = true := by
  rw [bufDefined_iff]
  intro a ha
  have hlen : a < (List.replicate s.inst.nbytes (0 : Byte)).length := by rwa [List.length_replicate]
  have hread := Memory.read_writeBytes_inside s.buf 0 _ hlen
  rw [Nat.zero_add] at hread
  exact Option.isSome_of_eq_some hread

/-- No command takes a byte's value away. -/
theorem exec_bufDefined {i : Instr} {s t : State} (hdef : s.bufDefined = true) (h : exec i s = .next t) :
    t.bufDefined = true := by
  rcases exec_cases h with ⟨-, rfl⟩ | ⟨-, rfl⟩ | ⟨-, -, -, v, rfl⟩ | ⟨-, -, -, idx, a, v, -, -, -, -, rfl⟩
  · exact begun_bufDefined s
  · exact hdef
  · exact hdef
  · exact stored_bufDefined a v hdef

/-- Which bytes have a value depends on the parameters and `BUF` alone. -/
theorem bufDefined_congr {s t : State} (hinst : t.inst = s.inst) (hbuf : t.buf = s.buf) : t.bufDefined = s.bufDefined := by
  simp only [State.bufDefined, hinst, hbuf]

@[simp] theorem controllerIe_bufDefined (s t : State) : (controllerIe s t).bufDefined = t.bufDefined := by
  obtain ⟨w, hw⟩ := exists_controllerIe_eq_writeIe s t
  rw [hw]
  rfl

/-- Only a reset takes the values of `BUF` away (R41, R236). -/
theorem step_bufDefined {s t : State} (hdef : s.bufDefined = true) (hr : s.input.rst = false) (hs : step s = .next t) :
    t.bufDefined = true := by
  rcases step_cases hs with ⟨hr', -⟩ | ⟨-, hb, -⟩ | ⟨i, u, -, -, hu, rfl⟩ | ⟨-, -, -, rfl⟩
  · simp [hr] at hr'
  · obtain ⟨hbuf, -⟩ := bufferFixedDuringFrame s t hb hr hs
    exact (bufDefined_congr (step_sameClock hs).inst hbuf).trans hdef
  · rw [controllerIe_bufDefined]
    exact exec_bufDefined (s := s.advance) hdef hu
  · rw [controllerIe_bufDefined]
    exact hdef

/-! ### The line -/

/-- While idle the pad is low (R42(a)). -/
theorem dout_of_idle {s : State} (h : s.Inv) (hp : s.phase = .idle) : s.dout = false := by
  obtain ⟨-, hdout, -⟩ := (inv_iff s).mp h
  simpa [hp] using hdout

/-- A configured block drives the line (R26). -/
theorem line_of_configured {s : State} (hd : s.dir = true) : s.line = s.dout := line_of_driven (pad_of_configured hd)

/-- Settles O50: BEGIN writes `DIR` and every byte, and not `DOUT`; only a reset undoes them, and the invariant is kept. -/
theorem configuredUntilReset : Obligations.ConfiguredUntilReset := by
  constructor
  · intro s t he
    obtain rfl : s.begun = t := Host.Outcome.next.inj ((exec_begin s).symm.trans he)
    have hline : s.begun.line = s.dout := line_of_configured rfl
    exact ⟨rfl, begun_bufDefined s, fun h hp => hline.trans (dout_of_idle h hp)⟩
  · intro s t h hd hdef hr hs
    have hd' : t.dir = true := directionStaysSet s t hd hr hs
    have h' : t.Inv := everyStepKeepsTheInvariant s t h hs
    exact ⟨hd', step_bufDefined hdef hr hs, fun hp => (line_of_configured hd').trans (dout_of_idle h' hp)⟩

end Sys2Proof.Machine
end
